-- ==== Sys2Proof/Word.lean ====
section
/-! DEFINITION. The word types of the Bus Engine (spec/00_scope.md R7): bytes, 32-bit fields and line levels. -/

namespace Sys2Proof

/-- A byte (R7): a pin field, the protocol tag, a transferred byte, a status code. -/
abbrev Byte := BitVec 8

/-- A 4-bit nibble (R7). -/
abbrev Nibble := BitVec 4

/-- A 32-bit field (R7): a block count (unsigned) or a delay (two's complement). -/
abbrev Word32 := BitVec 32

/-- A line level, `0` or `1` (R7): `false` is level 0 and `true` is level 1. -/
abbrev Level := Bool

end Sys2Proof
end

