-- ==== Sys2Proof/Config.lean ====
section
/-! DEFINITION. What an implementation fixes, and the free values (spec/00_scope.md R6, spec/93 U2, U10).
A constant without a body is OPEN: nothing can evaluate it, and what is proved holds for every value of it. -/

namespace Sys2Proof.Config

/-- `N_DATA` (R6): the number of data lines. -/
def nData : Nat := 8

/-- `GPIO_MIN` (R6): the smallest legal GPIO number. -/
def gpioMin : Nat := 0

/-- `GPIO_MAX` (R6): the largest legal GPIO number. -/
def gpioMax : Nat := 27

/-- `N_DELAYS` (R6): the number of delay parameters. -/
def nDelays : Nat := 5

/-- `PIN_UNSET` (R6, decision D3): the pin byte that names no GPIO. -/
def pinUnset : Byte := 0xFF#8

/-- `TAG_8080` (R6, R17, decision D6): the one protocol tag OPEN accepts. -/
def tag8080 : Byte := 0x00#8

/-- `RS_CMD_LEVEL` (R6, U10): OPEN parameter, the RS level that selects the command register. -/
opaque rsCmdLevel : Level

/-- `EW_ACTIVE` (R6, U10): OPEN parameter, the level of the asserted write strobe. -/
opaque ewActive : Level

/-- `RW_ACTIVE` (R6, U10): OPEN parameter, the level of the asserted read strobe. -/
opaque rwActive : Level

/-- `RS_DATA_LEVEL = 1 - RS_CMD_LEVEL` (R6). -/
def rsDataLevel : Level := !rsCmdLevel

/-- `EW_IDLE = 1 - EW_ACTIVE` (R6). -/
def ewIdle : Level := !ewActive

/-- `RW_IDLE = 1 - RW_ACTIVE` (R6). -/
def rwIdle : Level := !rwActive

/-- `T_RES_NS` (R6, R158, U9): OPEN parameter, the resolution of the delay timer. No functional rule reads it
(R158: the one law is that a delay never ends early), so nothing in the model does. -/
opaque tResNs : Nat

/-- The level the outside world drives on an input pin (R27, U2, U11): the free value of the `n`-th sample, on pin
`p`. The device is an oracle, so nothing constrains it (log entry 3). -/
opaque ext (n p : Nat) : Level

/-- `FIX_STATUS` (spec/95 section 3): the byte the loop-back fixture answers to a status read. -/
def fixStatus : Byte := 0x03#8

/-- `CG_ALIGN` (R6, R125, conflict C1, decision D35): the façade's alignment of the character-generator base. -/
def cgAlign : Nat := 8

/-! ### The façade's chip opcodes (R122): an external table whose values no source gives, but for one -/

/-- `OPC_DATA_WRITE_DEC` (R122, R139): the one opcode value the source gives. -/
def opcDataWriteDec : Byte := 0xC2#8

/-- `OPC_SET_CURSOR_POINTER` (R122). -/
opaque opcSetCursorPointer : Byte

/-- `OPC_SET_CG_OFFSET` (R122). -/
opaque opcSetCgOffset : Byte

/-- `OPC_SET_ADDRESS_POINTER` (R122). -/
opaque opcSetAddressPointer : Byte

/-- `OPC_SET_TEXT_HOME` (R122). -/
opaque opcSetTextHome : Byte

/-- `OPC_SET_TEXT_AREA` (R122). -/
opaque opcSetTextArea : Byte

/-- `OPC_SET_GRAPHIC_HOME` (R122). -/
opaque opcSetGraphicHome : Byte

/-- `OPC_SET_GRAPHIC_AREA` (R122). -/
opaque opcSetGraphicArea : Byte

/-- `OPC_MODE_SET` (R122). -/
opaque opcModeSet : Byte

/-- `OPC_DISPLAY_MODE` (R122). -/
opaque opcDisplayMode : Byte

/-- `OPC_AUTO_WRITE` (R122). -/
opaque opcAutoWrite : Byte

/-- `OPC_AUTO_READ` (R122). -/
opaque opcAutoRead : Byte

/-- `OPC_AUTO_RESET` (R122). -/
opaque opcAutoReset : Byte

/-- `OPC_DATA_WRITE_INC` (R122). -/
opaque opcDataWriteInc : Byte

/-- `OPC_DATA_READ_INC` (R122). -/
opaque opcDataReadInc : Byte

/-- `OPC_DATA_READ_DEC` (R122). -/
opaque opcDataReadDec : Byte

/-- `OPC_DATA_WRITE_NONVAR` (R122). -/
opaque opcDataWriteNonvar : Byte

/-- `OPC_DATA_READ_NONVAR` (R122). -/
opaque opcDataReadNonvar : Byte

/-! ### Façade points the source leaves open (U16, log entry 9) -/

/-- Whether the mode bytes travel combined into the command byte, or as a data byte before the opcode (R136, N21). -/
opaque flagByteCombined : Bool

/-- Whether a façade read on a write-only bus still sends its opcode before its `RDB` fails (R128, R132, N20). -/
opaque sendsReadOpcode : Bool

/-- Whether `bulk_read` on a write-only bus still sends the auto-reset opcode (R132, N20). -/
opaque sendsAutoReset : Bool

end Sys2Proof.Config
end

