-- ==== Sys2Proof/Syntax.lean ====
section
/-! DEFINITION. The six commands of the Bus Engine (spec/30_encoding.md R56) and the BusConfig record
(spec/10_state.md R15). Reserved opcode bytes are no command (R64): the decoder names them. -/

namespace Sys2Proof

/-- BusConfig (R15, R55), in the order of its 32-byte image: eight data-line pins, register-select, enable/write,
optional read/write, protocol tag, and five delays in nanoseconds (signed 32-bit, R20). -/
structure BusConfig where
  d0 : Byte
  d1 : Byte
  d2 : Byte
  d3 : Byte
  d4 : Byte
  d5 : Byte
  d6 : Byte
  d7 : Byte
  rs : Byte
  ew : Byte
  rw : Byte
  tag : Byte
  tSu : Word32
  tClk : Word32
  tRd : Word32
  tProc : Word32
  tH : Word32
  deriving DecidableEq, Repr, Inhabited

/-- The commands, one constructor per row of spec/opcode_table.json. -/
inductive Instr where
  /-- `OPEN config` (R57, R83). -/
  | openBus (c : BusConfig)
  /-- `WRC byte` (R58, R101). -/
  | wrc (b : Byte)
  /-- `WRB bytes` (R59, R103); the packet's `cnt` is the length of the payload. -/
  | wrb (bytes : List Byte)
  /-- `RDB count` (R60, R112). -/
  | rdb (count : Word32)
  /-- `RDR` (R61, R113). -/
  | rdr
  /-- `CLOSE` (R62, R92). -/
  | closeBus
  deriving DecidableEq, Repr, Inhabited

end Sys2Proof
end

