-- ==== Sys2Proof/WellFormed.lean ====
section
/-! DEFINITION. Which commands a packet can express (spec/30_encoding.md R63, R65, decision D5). -/

namespace Sys2Proof

/-- A command is well formed when a packet expresses it. The one limit is the 32-bit `cnt` of a WRB packet (R54, R63,
U17). Every other operand fills its field, and reserved values inside a packet are checked by the command (R65). -/
def Instr.wf : Instr → Bool
  | .openBus _ => true
  | .wrc _ => true
  | .wrb bytes => decide (bytes.length < 2 ^ 32)
  | .rdb _ => true
  | .rdr => true
  | .closeBus => true

end Sys2Proof
end

