-- ==== Sys2Proof/Decode.lean ====
section
/-! DEFINITION. The decoder of the command stream, total on any bytes (spec/30_encoding.md R54 to R66, R72), the
encoder, and the layout of an opcode-table word. -/

namespace Sys2Proof

/-! ### Byte-order helpers -/

/-- Little-endian assembly of four bytes, first byte least significant (R41, R63). -/
def le32 (b0 b1 b2 b3 : Byte) : Word32 := b3 ++ b2 ++ b1 ++ b0

/-- The four bytes of a 32-bit field, least significant first (R41, R63). -/
def le32Bytes (w : Word32) : List Byte :=
  [w.extractLsb' 0 8, w.extractLsb' 8 8, w.extractLsb' 16 8, w.extractLsb' 24 8]

/-- Byte `k` of a byte list; callers check the length first. -/
def byteAt (bs : List Byte) (k : Nat) : Byte := bs.getD k 0#8

/-- The 32-bit little-endian field at bytes `k .. k+3`. -/
def wordAt (bs : List Byte) (k : Nat) : Word32 :=
  le32 (byteAt bs k) (byteAt bs (k + 1)) (byteAt bs (k + 2)) (byteAt bs (k + 3))

/-! ### The BusConfig image (R55) -/

/-- The BusConfig image, 32 bytes, in the order of R55. -/
def configImage (c : BusConfig) : List Byte :=
  [c.d0, c.d1, c.d2, c.d3, c.d4, c.d5, c.d6, c.d7, c.rs, c.ew, c.rw, c.tag]
    ++ le32Bytes c.tSu ++ le32Bytes c.tClk ++ le32Bytes c.tRd ++ le32Bytes c.tProc ++ le32Bytes c.tH

/-- The BusConfig read from the first 32 bytes of an image (R55, R63). -/
def configOfImage (bs : List Byte) : BusConfig where
  d0 := byteAt bs 0
  d1 := byteAt bs 1
  d2 := byteAt bs 2
  d3 := byteAt bs 3
  d4 := byteAt bs 4
  d5 := byteAt bs 5
  d6 := byteAt bs 6
  d7 := byteAt bs 7
  rs := byteAt bs 8
  ew := byteAt bs 9
  rw := byteAt bs 10
  tag := byteAt bs 11
  tSu := wordAt bs 12
  tClk := wordAt bs 16
  tRd := wordAt bs 20
  tProc := wordAt bs 24
  tH := wordAt bs 28

/-! ### Decoding -/

/-- What the decoder finds at the head of a byte stream (R72). -/
inductive Decoded where
  /-- A whole packet of a command, and the stream after it. -/
  | command (i : Instr) (rest : List Byte)
  /-- A reserved opcode byte, a packet of one byte (R64, `BadOpcode`), and the stream after it. -/
  | badOpcode (op : Byte) (rest : List Byte)
  /-- The stream ends before the packet does (R66, U5), or holds nothing. -/
  | incomplete
  deriving DecidableEq, Repr

/-- A packet's operand bytes after the opcode byte: `n` of them must be there (R66). -/
def withOperands (bs : List Byte) (n : Nat) (i : Instr) : Decoded :=
  if bs.length < n then .incomplete else .command i (bs.drop n)

/-- The decoder (R56, R66, R72): the opcode byte selects the command, and `cnt` the length of a WRB packet. -/
def decode : List Byte → Decoded
  | [] => .incomplete
  | op :: bs =>
    if op = 0x01#8 then withOperands bs 32 (.openBus (configOfImage bs))
    else if op = 0x02#8 then withOperands bs 1 (.wrc (byteAt bs 0))
    else if op = 0x03#8 then
      if bs.length < 4 then .incomplete
      else withOperands bs (4 + (wordAt bs 0).toNat) (.wrb ((bs.drop 4).take (wordAt bs 0).toNat))
    else if op = 0x04#8 then withOperands bs 4 (.rdb (wordAt bs 0))
    else if op = 0x05#8 then .command .rdr bs
    else if op = 0x06#8 then .command .closeBus bs
    else .badOpcode op bs

/-! ### Encoding -/

/-- The packet of a well-formed command (R57 to R62). -/
def encode : Instr → List Byte
  | .openBus c => 0x01#8 :: configImage c
  | .wrc b => [0x02#8, b]
  | .wrb bytes => 0x03#8 :: (le32Bytes (BitVec.ofNat 32 bytes.length) ++ bytes)
  | .rdb count => 0x04#8 :: le32Bytes count
  | .rdr => [0x05#8]
  | .closeBus => [0x06#8]

/-- The length of the packet at the head of a stream (R66): formats N, B, C, K by the opcode byte alone, format V by
the opcode byte and `cnt`; a reserved opcode byte is a packet of one byte (R64). Bytes the stream lacks count as 0. -/
def packetLength (bs : List Byte) : Nat :=
  if byteAt bs 0 = 0x01#8 then 33
  else if byteAt bs 0 = 0x02#8 then 2
  else if byteAt bs 0 = 0x03#8 then 5 + (wordAt bs 1).toNat
  else if byteAt bs 0 = 0x04#8 then 5
  else 1

/-! ### Opcode-table words -/

/-- The `n` bytes of a table word, the least significant byte first in the stream (bytes are numbered in stream order,
R54). -/
def wordBytes : Nat → Nat → List Byte
  | 0, _ => []
  | n + 1, w => BitVec.ofNat 8 w :: wordBytes n (w / 256)

/-- The packet whose first `nbits` bits are `w`, every later bit being 0, up to the packet's own length (R66). -/
def tablePacket (nbits w : Nat) : List Byte :=
  let bs := wordBytes ((nbits + 7) / 8) (w % 2 ^ nbits)
  (bs ++ List.replicate (packetLength bs - bs.length) 0#8).take (packetLength bs)

/-- The command the decoder reads from an opcode-table word; `none` where it refuses. -/
def decodeTableWord (nbits w : Nat) : Option Instr :=
  match decode (tablePacket nbits w) with
  | .command i _ => some i
  | .badOpcode _ _ => none
  | .incomplete => none

end Sys2Proof
end

