-- ==== Sys2Proof/Machine/State.lean ====
section
/-! DEFINITION. The machine's state as plain data (spec/10_state.md), its reset value, and the reasons a step stops. -/

namespace Sys2Proof.Machine

/-! ### Pads and micro-operations -/

/-- The mode of a pad, `IN` or `OUT` (R26, R80). -/
inductive PadMode where
  | inp
  | out
  deriving DecidableEq, Repr, Inhabited

/-- What the GPIO collaborator holds for one GPIO number (R26). -/
structure Pad where
  /-- Some owner holds the pin. -/
  claimed : Bool
  mode : PadMode
  /-- The level last written, whatever the mode was. -/
  latch : Level
  deriving DecidableEq, Repr, Inhabited

/-- The six micro-operations (R9, R73 to R79). A pin is a GPIO number, a delay a number of nanoseconds. -/
inductive MicroOp where
  | claim (p : Nat)
  | release (p : Nat)
  | mode (p : Nat) (m : PadMode)
  | write (p : Nat) (v : Level)
  | sample (p : Nat)
  | delay (d : Nat)
  deriving DecidableEq, Repr

/-- A micro-operation performed, with its result (R28, R82): an entry of the ghost trace. -/
inductive Event where
  /-- `C(p)` when granted, `C!(p)` when refused. -/
  | claim (p : Nat) (granted : Bool)
  | release (p : Nat)
  | mode (p : Nat) (m : PadMode)
  | write (p : Nat) (v : Level)
  | sample (p : Nat) (v : Level)
  | delay (d : Nat)
  deriving DecidableEq, Repr

/-! ### The sequencer -/

/-- A statement of the sequencer's program: a micro-operation, or one of the register transfers that the pseudocode of
spec/41, 42 and 43 writes between them. Only micro-operations count in `mpc` and stand in the trace (R73). -/
inductive Stmt where
  | op (o : MicroOp)
  /-- `if r = refused then Release` each pin of `undo` in order, and end (R86); `r` is the result of the last claim. -/
  | checkClaim (undo : List Nat)
  /-- `RXB[i] <-` the level last sampled (R109, R110). -/
  | takeBit (i : Nat)
  /-- `TXB <- b` (R100). -/
  | loadTxb (b : Byte)
  /-- `CNT <- n` (R103, R111). -/
  | loadCnt (n : Word32)
  /-- `CNT <- CNT - 1` (R103, R111). -/
  | countDown
  /-- The nibble phase `h` (R23): `false` for the high nibble, `true` for the low one. No pseudocode writes it: when it is
  written is a DESIGN CHOICE (log entry 17). -/
  | setPhase (low : Bool)
  /-- `out <- []` (R111). -/
  | clearData
  /-- `out <- out ++ [RXB]` (R110, R111). -/
  | takeByte
  /-- `dir <- m` (R25, R111). -/
  | setDir (m : PadMode)
  /-- Ghost: one write-strobe pulse is complete (R28, R99). -/
  | countEw
  /-- Ghost: one read-strobe pulse is complete (R28, R108). -/
  | countRw
  deriving DecidableEq, Repr

/-- `seq`, the sequencer state (R22). `rest` is what is left of the command's program, so that a command in progress is
whole in the state. -/
inductive Seq where
  | idle
  | run (cmd : Instr) (mpc : Nat) (rest : List Stmt)
  deriving DecidableEq, Repr, Inhabited

/-! ### The lifecycle -/

/-- What the controller latches when it opens (R15, R18, R19): it exists only while `life` is `OPEN` (R30, R92, U8). -/
structure OpenRegs where
  cfg : BusConfig
  /-- `w4`: 4-bit mode. -/
  w4 : Bool
  /-- `can_read`: the bus has a read strobe. -/
  canRead : Bool
  deriving DecidableEq, Repr, Inhabited

/-- `life` (R14). While `CLOSED`, `cfg`, `w4` and `can_read` hold no value (R30, U8), so they stand with `OPEN`. -/
inductive Life where
  | closed
  | opened (r : OpenRegs)
  deriving DecidableEq, Repr, Inhabited

/-! ### The device -/

/-- The loop-back fixture of spec/95 section 3 (decision D37), a test device. -/
structure LoopBack where
  /-- The configuration it is built for: which GPIO is which line. -/
  wiring : BusConfig
  w4 : Bool
  fifo : List Byte
  cmds : List Byte
  /-- `wn`: the high nibble of a byte half written. -/
  wn : Option Nibble
  /-- `rn`: the byte half read. -/
  rn : Option Byte
  /-- `drv`: the levels it drives, by GPIO number; `none` while it drives nothing. -/
  drv : Option (List (Nat × Level))
  deriving DecidableEq, Repr, Inhabited

/-- What is on the bus (R27, R184 f): the LCD chip, an oracle; or the loop-back fixture. -/
inductive Device where
  | oracle
  | loopBack (f : LoopBack)
  deriving DecidableEq, Repr, Inhabited

/-! ### The machine -/

/-- The machine: controller, GPIO collaborator, device, host streams and ghost state (R13 to R28, R37). -/
structure State where
  /-- `life` (R14) with `cfg` (R15), `w4` (R18) and `can_read` (R19). -/
  life : Life
  /-- `owned` (R21): the GPIO numbers the controller has claimed, in the order of `lines(cfg)`. -/
  owned : List Nat
  /-- `seq` and `mpc` (R22). -/
  seq : Seq
  /-- `TXB` (R23). -/
  txb : Byte
  /-- `RXB` (R23). -/
  rxb : Byte
  /-- `CNT` (R23). -/
  cnt : Word32
  /-- `h` (R23): `false` is phase 0, the high nibble. -/
  h : Bool
  /-- `out` of R111: the bytes of the current read frame, in the order read. -/
  rdata : List Byte
  /-- The result of the last `Claim` (granted) or `Sample` (the level): `r` of R83 and `s[i]` of R109. -/
  res : Bool
  /-- `status` (R24). -/
  status : Byte
  /-- `fault` (R24), sticky. -/
  fault : Bool
  /-- `dir` (R25). -/
  dir : PadMode
  /-- `claimed`, `mode` and `latch` of GPIO 0 to 27 (R26). -/
  pads : Vector Pad 28
  /-- `Dev` (R27). -/
  dev : Device
  /-- The model's own: how many samples have been taken from the oracle, the index of the next free value. -/
  draws : Nat
  /-- Ghost `trace` (R28), oldest first. -/
  trace : List Event
  /-- Ghost `tmin` (R28), nanoseconds. -/
  tmin : Nat
  /-- Ghost `n_ew` (R28). -/
  nEw : Nat
  /-- Ghost `n_rw` (R28). -/
  nRw : Nat
  /-- The command stream (R37, R53): the bytes the host has sent and the controller has not consumed. -/
  commands : List Byte
  /-- The response stream (R37, R53): the bytes emitted since reset. -/
  responses : List Byte
  deriving DecidableEq, Repr, Inhabited

/-- A pad as the model starts it (R30 leaves it unspecified: log entry 1). -/
def Pad.launch : Pad := { claimed := false, mode := .inp, latch := false }

/-- The machine right after reset (R30, R163, R164). Where R30 gives no value, log entries 1, 2 and 4 name one. -/
def State.reset : State where
  life := .closed
  owned := []
  seq := .idle
  txb := 0#8
  rxb := 0#8
  cnt := 0#32
  h := false
  rdata := []
  res := false
  status := 0x00#8
  fault := false
  dir := .out
  pads := Vector.replicate 28 Pad.launch
  dev := .oracle
  draws := 0
  trace := []
  tmin := 0
  nEw := 0
  nRw := 0
  commands := []
  responses := []

/-- The reasons the machine stops. -/
inductive Fault where
  /-- Raised by `step` in a state whose sticky `fault` bit is set: no rule says what a later command does (R155, U14).
  Safe: the model claims nothing there. -/
  | afterUndefined
  deriving DecidableEq, Repr

/-- The reasons the model gives no meaning. -/
inductive Refusal where
  /-- Raised by `exec` for an instruction that has no meaning yet. Safe. No arm raises it. -/
  | notModelled (mnemonic : String)
  /-- Raised by `step` while `seq` is `IDLE` and the command stream holds no whole packet: the controller waits for the
  host (R66, U5 `stuck`). Safe: no command, no effect. -/
  | awaitingPacket
  deriving DecidableEq, Repr

end Sys2Proof.Machine

namespace Sys2Proof.Config

/-- A CLOSE while `CLOSED` is undefined (R93, U1): beyond the sticky `fault` bit nothing is known of the state it
leaves, so all the rest is this free value of the state before (log entry 5). -/
opaque afterClosedClose (s : Machine.State) : Machine.State

end Sys2Proof.Config
end

