-- ==== Sys2Proof/Machine/Operands.lean ====
section
/-! DEFINITION. The operands of the commands: lines and their GPIO numbers, pin classes, nibbles, bits and delays
(spec/10_state.md R16, R21; spec/20_memory.md R38, R39; spec/40_microops.md R185). -/

namespace Sys2Proof.Machine

/-! ### Lines and pins -/

/-- The lines of the bus (R10). -/
inductive Line where
  | d (i : Fin 8)
  | rs
  | ew
  | rw
  deriving DecidableEq, Repr

/-- The pin field of a line (R10, R15). -/
def pinByte (c : BusConfig) : Line → Byte
  | .d 0 => c.d0
  | .d 1 => c.d1
  | .d 2 => c.d2
  | .d 3 => c.d3
  | .d 4 => c.d4
  | .d 5 => c.d5
  | .d 6 => c.d6
  | .d 7 => c.d7
  | .rs => c.rs
  | .ew => c.ew
  | .rw => c.rw

/-- `gpio(L)` (R21): the GPIO number of a line. -/
def gpio (c : BusConfig) (l : Line) : Nat := (pinByte c l).toNat

/-- `legal(p)` (R16): `GPIO_MIN <= p <= GPIO_MAX`. -/
def legal (p : Byte) : Bool := decide (Config.gpioMin ≤ p.toNat) && decide (p.toNat ≤ Config.gpioMax)

/-- `unset(p)` (R16): `p = PIN_UNSET`. -/
def unset (p : Byte) : Bool := decide (p = Config.pinUnset)

/-- `out_of_range(p)` (R16): neither legal nor unset. -/
def outOfRange (p : Byte) : Bool := !legal p && !unset p

/-- The low four data lines, `D0` first (R10). -/
def lowLines : List Line := [.d 0, .d 1, .d 2, .d 3]

/-- The high four data lines, `D4` first (R10). -/
def highLines : List Line := [.d 4, .d 5, .d 6, .d 7]

/-- `data_lines(cfg)` (R21): `D0..D7`, or `D4..D7` in 4-bit mode. -/
def dataLines (w4 : Bool) : List Line := if w4 then highLines else lowLines ++ highLines

/-- `lines(cfg)` (R21): the data lines, RS, EW, and RW when the bus is readable. -/
def lines (w4 canRead : Bool) : List Line :=
  dataLines w4 ++ [.rs, .ew] ++ (if canRead then [.rw] else [])

/-- The GPIO numbers of `lines(cfg)`, in that order (R21). -/
def pins (c : BusConfig) (w4 canRead : Bool) : List Nat := (lines w4 canRead).map (gpio c)

/-! ### Bits and nibbles -/

/-- `hi(b) = b[7:4]` (R7, R39). -/
def hiNibble (b : Byte) : Nibble := b.extractLsb' 4 4

/-- `lo(b) = b[3:0]` (R7, R39). -/
def loNibble (b : Byte) : Nibble := b.extractLsb' 0 4

/-- Bit `i` of a byte replaced by a level (R109). -/
def setBit (b : Byte) (i : Nat) (v : Level) : Byte :=
  (b &&& ~~~(1#8 <<< i)) ||| ((BitVec.ofBool v).zeroExtend 8 <<< i)

/-- The byte `s[7] ++ ... ++ s[0]` (R38, R109). -/
def byteOfLevels (s : Fin 8 → Level) : Byte :=
  BitVec.ofBool (s 7) ++ BitVec.ofBool (s 6) ++ BitVec.ofBool (s 5) ++ BitVec.ofBool (s 4)
    ++ BitVec.ofBool (s 3) ++ BitVec.ofBool (s 2) ++ BitVec.ofBool (s 1) ++ BitVec.ofBool (s 0)

/-- The nibble on `D7..D4`: bit `j` is the level of line `D(4+j)` (R39). -/
def nibbleOfLevels (s : Fin 8 → Level) : Nibble :=
  BitVec.ofBool (s 7) ++ BitVec.ofBool (s 6) ++ BitVec.ofBool (s 5) ++ BitVec.ofBool (s 4)

/-! ### Delays -/

/-- A delay field is negative iff its top bit is 1 (R20, R63). -/
def negativeDelay (d : Word32) : Bool := d.msb

/-- A delay field as the argument of `Delay`, unchanged (R79, R185 b); OPEN has refused a negative one (R84 V2). -/
def delayNs (d : Word32) : Nat := d.toNat

end Sys2Proof.Machine
end

