-- ==== Sys2Proof/Machine/Flags.lean ====
section
/-! DEFINITION. The flags: width and readability, the validity of a configuration, the status codes
(spec/10_state.md R18, R19, R24; spec/41_lifecycle.md R84, R85; spec/60_exceptions.md R143). -/

namespace Sys2Proof.Machine

/-! ### Width and readability -/

/-- `w4` of a configuration (R18, R85): all of the low four pins are unset. -/
def width4 (c : BusConfig) : Bool := unset c.d0 && unset c.d1 && unset c.d2 && unset c.d3

/-- `can_read` of a configuration (R19, R85): RW is legal; unset and out-of-range alike mean absent. -/
def readable (c : BusConfig) : Bool := legal c.rw

/-- `lines(c)` with the width and readability that `c` gives (R21, R84). -/
def configLines (c : BusConfig) : List Line := lines (width4 c) (readable c)

/-- The GPIO numbers of the lines of `c`, in order. -/
def configPins (c : BusConfig) : List Nat := pins c (width4 c) (readable c)

/-! ### Validation (R84) -/

/-- V1: the protocol tag is `TAG_8080`. -/
def validTag (c : BusConfig) : Bool := decide (c.tag = Config.tag8080)

/-- V2: none of the five delays is negative. -/
def validDelays (c : BusConfig) : Bool :=
  !negativeDelay c.tSu && !negativeDelay c.tClk && !negativeDelay c.tRd && !negativeDelay c.tProc && !negativeDelay c.tH

/-- V3: RS and EW are legal. -/
def validControl (c : BusConfig) : Bool := legal c.rs && legal c.ew

/-- V4: the high four data pins are legal. -/
def validHigh (c : BusConfig) : Bool := legal c.d4 && legal c.d5 && legal c.d6 && legal c.d7

/-- V5: the low four data pins are all unset or all legal. -/
def validLow (c : BusConfig) : Bool :=
  (unset c.d0 && unset c.d1 && unset c.d2 && unset c.d3) || (legal c.d0 && legal c.d1 && legal c.d2 && legal c.d3)

/-- V6: the used lines name pairwise different GPIO numbers. -/
def validDistinct (c : BusConfig) : Bool := decide (configPins c).Nodup

/-- `valid(c)` (R84): V1 to V6. -/
def valid (c : BusConfig) : Bool :=
  validTag c && validDelays c && validControl c && validHigh c && validLow c && validDistinct c

/-! ### Status codes -/

/-- The error kinds of the Bus Engine (R142, R144 to R147). `AlignmentWarning` is the façade's (R148). -/
inductive ErrorKind where
  | configurationError
  | unsupportedOperation
  | handleInvalid
  | badOpcode
  deriving DecidableEq, Repr

/-- The status code of success (R68, R143). -/
def statusOk : Byte := 0x00#8

/-- The status code of an error kind (R68, R143). -/
def statusCode : ErrorKind → Byte
  | .configurationError => 0x01#8
  | .unsupportedOperation => 0x02#8
  | .handleInvalid => 0x03#8
  | .badOpcode => 0x04#8

/-- The error kind that a status byte reports (R68, R143). -/
def errorOf (code : Byte) : Option ErrorKind :=
  if code = 0x01#8 then some .configurationError
  else if code = 0x02#8 then some .unsupportedOperation
  else if code = 0x03#8 then some .handleInvalid
  else if code = 0x04#8 then some .badOpcode
  else none

end Sys2Proof.Machine
end

