-- ==== Sys2Proof/Machine/Ops.lean ====
section
/-! DEFINITION. The named operations over the state: pads, the device, the six micro-operations, running a program,
and how a command ends (spec/40_microops.md; spec/60_exceptions.md R152; spec/30_encoding.md R67). -/

namespace Sys2Proof.Machine

/-! ### Pads -/

/-- The pad of GPIO `p` (R26). Only GPIO 0 to 27 have one; no rule reaches another number (R73, R84). -/
def State.pad (s : State) (p : Nat) : Pad := (s.pads[p]?).getD Pad.launch

/-- The pad of GPIO `p` replaced; a number that has no pad changes nothing. -/
def State.setPad (s : State) (p : Nat) (x : Pad) : State := { s with pads := s.pads.setIfInBounds p x }

/-- The level the device drives on pin `p`, if it drives it (R27; spec/95 section 3). -/
def driven (dev : Device) (p : Nat) : Option Level :=
  match dev with
  | .oracle => none
  | .loopBack f => f.drv.bind fun m => m.lookup p

/-- `ext[p]` (R27): what the device drives, and a draw where nothing does (U2). -/
def State.ext (s : State) (p : Nat) : Level := (driven s.dev p).getD (Config.ext s.draws p)

/-- `level(p)` (R26): the latch of an output, `ext[p]` of an input. -/
def State.level (s : State) (p : Nat) : Level :=
  match (s.pad p).mode with
  | .out => (s.pad p).latch
  | .inp => s.ext p

/-! ### The loop-back fixture (spec/95 section 3) -/

/-- A complete byte taken by the fixture: data with RS at the data level, else a command. -/
def fixtureTake (f : LoopBack) (rsLevel : Level) (v : Byte) : LoopBack :=
  if rsLevel = Config.rsDataLevel then { f with fifo := f.fifo ++ [v] } else { f with cmds := f.cmds ++ [v] }

/-- Write trailing edge: the fixture reads the data lines, and in 4-bit mode pairs nibbles, high one first. -/
def fixtureWriteEdge (f : LoopBack) (wire : Nat → Level) : LoopBack :=
  let level := fun i : Fin 8 => wire (gpio f.wiring (.d i))
  let rsLevel := wire (gpio f.wiring .rs)
  if f.w4 then
    match f.wn with
    | none => { f with wn := some (nibbleOfLevels level) }
    | some n => fixtureTake { f with wn := none } rsLevel (n ++ nibbleOfLevels level)
  else fixtureTake f rsLevel (byteOfLevels level)

/-- The byte a read starts with, and the `fifo` after it: its head on a data read, `FIX_STATUS` on a status read. -/
def fixtureChoose (f : LoopBack) (rsLevel : Level) : Option (Byte × List Byte) :=
  if rsLevel = Config.rsDataLevel then
    match f.fifo with
    | [] => none
    | b :: bs => some (b, bs)
  else some (Config.fixStatus, f.fifo)

/-- Bits of `b` driven on data lines, by GPIO number. -/
def fixtureDrive (f : LoopBack) (ls : List (Fin 8)) (bit : Fin 8 → Level) : Option (List (Nat × Level)) :=
  some (ls.map fun i => (gpio f.wiring (.d i), bit i))

/-- Read leading edge: the fixture drives a byte, or in 4-bit mode its high nibble and then its low one. -/
def fixtureReadEdge (f : LoopBack) (wire : Nat → Level) : LoopBack :=
  let rsLevel := wire (gpio f.wiring .rs)
  if f.w4 then
    match f.rn with
    | none =>
      match fixtureChoose f rsLevel with
      | none => { f with drv := none }
      | some (b, bs) =>
        { f with fifo := bs, rn := some b, drv := fixtureDrive f [4, 5, 6, 7] fun i => b.getLsbD i.val }
    | some b => { f with rn := none, drv := fixtureDrive f [4, 5, 6, 7] fun i => b.getLsbD (i.val - 4) }
  else
    match fixtureChoose f rsLevel with
    | none => { f with drv := none }
    | some (b, bs) =>
      { f with fifo := bs, drv := fixtureDrive f [0, 1, 2, 3, 4, 5, 6, 7] fun i => b.getLsbD i.val }

/-- The fixture after `Write(p, v)`, where `was` is the latch of `p` before and `wire` gives the levels after. -/
def fixtureAfterWrite (f : LoopBack) (was : Level) (wire : Nat → Level) (p : Nat) (v : Level) : LoopBack :=
  if p = gpio f.wiring .ew ∧ v = Config.ewIdle ∧ was = Config.ewActive then fixtureWriteEdge f wire
  else if p = gpio f.wiring .rw ∧ v = Config.rwActive then fixtureReadEdge f wire
  else if p = gpio f.wiring .rw ∧ v = Config.rwIdle then { f with drv := none }
  else f

/-- The device after `Write(p, v)`. The oracle's own state is no state of the model: its answers are free (R27). -/
def deviceAfterWrite (dev : Device) (was : Level) (wire : Nat → Level) (p : Nat) (v : Level) : Device :=
  match dev with
  | .oracle => .oracle
  | .loopBack f => .loopBack (fixtureAfterWrite f was wire p v)

/-! ### Micro-operations (R73 to R79) -/

/-- `mpc` after one more micro-operation (R22). -/
def Seq.bump : Seq → Seq
  | .idle => .idle
  | .run cmd mpc rest => .run cmd (mpc + 1) rest

/-- A micro-operation performed: it joins the trace and `mpc` counts it (R73). -/
def State.record (s : State) (e : Event) : State := { s with trace := s.trace ++ [e], seq := s.seq.bump }

/-- `Claim(p)` (R74). -/
def doClaim (p : Nat) (s : State) : State :=
  let granted := !(s.pad p).claimed
  { (s.setPad p { s.pad p with claimed := true }).record (.claim p granted) with res := granted }

/-- `Release(p)` (R75). -/
def doRelease (p : Nat) (s : State) : State :=
  (s.setPad p { s.pad p with claimed := false }).record (.release p)

/-- `Mode(p, m)` (R76). -/
def doMode (p : Nat) (m : PadMode) (s : State) : State :=
  (s.setPad p { s.pad p with mode := m }).record (.mode p m)

/-- `Write(p, v)` (R77); the device may act on the edge (R13, R27). -/
def doWrite (p : Nat) (v : Level) (s : State) : State :=
  let s' := s.setPad p { s.pad p with latch := v }
  { s'.record (.write p v) with dev := deviceAfterWrite s.dev (s.pad p).latch s'.level p v }

/-- `Sample(p)` (R78): each sample takes a free value of its own where nothing drives the pin (U2). -/
def doSample (p : Nat) (s : State) : State :=
  { s.record (.sample p (s.level p)) with res := s.level p, draws := s.draws + 1 }

/-- `Delay(d)` (R79). -/
def doDelay (d : Nat) (s : State) : State := { s.record (.delay d) with tmin := s.tmin + d }

/-- One micro-operation performed. -/
def perform : MicroOp → State → State
  | .claim p => doClaim p
  | .release p => doRelease p
  | .mode p m => doMode p m
  | .write p v => doWrite p v
  | .sample p => doSample p
  | .delay d => doDelay d

/-! ### Programs -/

/-- One statement performed. A `checkClaim` that passes does nothing; `abortsAt` says when it does not pass. -/
def performStmt : Stmt → State → State
  | .op o, s => perform o s
  | .checkClaim _, s => s
  | .takeBit i, s => { s with rxb := setBit s.rxb i s.res }
  | .loadTxb b, s => { s with txb := b }
  | .loadCnt n, s => { s with cnt := n }
  | .countDown, s => { s with cnt := s.cnt - 1 }
  | .setPhase low, s => { s with h := low }
  | .clearData, s => { s with rdata := [] }
  | .takeByte, s => { s with rdata := s.rdata ++ [s.rxb] }
  | .setDir m, s => { s with dir := m }
  | .countEw, s => { s with nEw := s.nEw + 1 }
  | .countRw, s => { s with nRw := s.nRw + 1 }

/-- The pins to release when a statement ends the program early: a `checkClaim` after a refused claim (R86), and
nothing else (R186 d). -/
def abortsAt : Stmt → State → Option (List Nat)
  | .checkClaim undo, s => if s.res then none else some undo
  | _, _ => none

/-- Releases in the order given (R86, R92). -/
def releaseAll (ps : List Nat) (s : State) : State := ps.foldl (fun s p => doRelease p s) s

/-- A program run to its end, in order (R45, R47): nothing ends it early but a refused claim (R186). -/
def runStmts : List Stmt → State → State
  | [], s => s
  | m :: ms, s =>
    match abortsAt m s with
    | some undo => releaseAll undo s
    | none => runStmts ms (performStmt m s)

/-- The controller takes a command: `seq` becomes `RUN(cmd, 0)` with the command's program (R22). -/
def accept (i : Instr) (prog : List Stmt) (s : State) : State := { s with seq := .run i 0 prog }

/-- A command taken and its program run. -/
def runProgram (i : Instr) (prog : List Stmt) (s : State) : State := runStmts prog (accept i prog s)

/-- What is left of the program in `seq` replaced. -/
def Seq.setRest (rest : List Stmt) : Seq → Seq
  | .idle => .idle
  | .run cmd mpc _ => .run cmd mpc rest

/-- One statement of the command in progress (R22, R73): what a run looks like from inside. -/
def microStep (s : State) : State :=
  match s.seq with
  | .idle => s
  | .run _ _ [] => s
  | .run _ _ (m :: ms) =>
    match abortsAt m s with
    | some undo => { s with seq := s.seq.setRest (undo.map fun p => .op (.release p)) }
    | none => { performStmt m s with seq := (performStmt m s).seq.setRest ms }

/-- The micro-operation of a statement that is one; `microprog` of R22 is a program filtered by it. -/
def Stmt.microOp : Stmt → Option MicroOp
  | .op o => some o
  | _ => none

/-- The micro-operation an entry of the trace records. -/
def Event.microOp : Event → MicroOp
  | .claim p _ => .claim p
  | .release p => .release p
  | .mode p m => .mode p m
  | .write p v => .write p v
  | .sample p _ => .sample p
  | .delay d => .delay d

/-! ### How a command ends -/

/-- A response packet (R67): a status byte and the data read; `seq` returns to `IDLE` (R22). -/
def respond (code : Byte) (data : List Byte) (s : State) : State :=
  { s with status := code, responses := s.responses ++ code :: data, seq := .idle }

/-- `fail <ErrorKind>` (R8, R152), the one operation every error goes through: `status` is written, the one-byte
response emitted, the sequencer idle; nothing is saved, masked or transferred, and there is no return (R154). -/
def fail (k : ErrorKind) (s : State) : State := respond (statusCode k) [] s

/-- `status OK` and its response, with the bytes read (R67). -/
def succeed (data : List Byte) (s : State) : State := respond statusOk data s

/-! ### Acceptance tests -/

/-- The lifecycle test of the transfer commands (R101, R151): `HandleInvalid` while `CLOSED`. -/
def checkHandle (s : State) : Except ErrorKind OpenRegs :=
  match s.life with
  | .closed => .error .handleInvalid
  | .opened r => .ok r

/-- `ReadCheck` (R107): the lifecycle test first, then readability. -/
def readCheck (s : State) : Except ErrorKind OpenRegs :=
  match checkHandle s with
  | .error k => .error k
  | .ok r => if r.canRead then .ok r else .error .unsupportedOperation

end Sys2Proof.Machine
end

