-- ==== Sys2Proof/Machine/Lifecycle.lean ====
section
/-! DEFINITION. OPEN and CLOSE (spec/41_lifecycle.md). -/

namespace Sys2Proof.Machine

/-- `init(L)` (R87). -/
def initLevel : Line → Level
  | .d _ => false
  | .rs => Config.rsDataLevel
  | .ew => Config.ewIdle
  | .rw => Config.rwIdle

/-- The claim phase (R86): each pin in order; if a claim is refused, the pins granted are released in reverse. -/
def claimPhase : List Nat → List Nat → List Stmt
  | _, [] => []
  | granted, p :: ps => .op (.claim p) :: .checkClaim granted :: claimPhase (p :: granted) ps

/-- The initialisation phase (R87): each line's latch, then its mode. -/
def initPhase (c : BusConfig) (ls : List Line) : List Stmt :=
  ls.flatMap fun l => [.op (.write (gpio c l) (initLevel l)), .op (.mode (gpio c l) .out)]

/-- The program of OPEN (R83). -/
def openProg (c : BusConfig) : List Stmt := claimPhase [] (configPins c) ++ initPhase c (configLines c)

/-- What OPEN latches (R85, R88). -/
def openRegs (c : BusConfig) : OpenRegs := { cfg := c, w4 := width4 c, canRead := readable c }

/-- The end of OPEN: the commit (R88), or `ConfigurationError` after a refused claim (R86). -/
def openDone (c : BusConfig) (s : State) : State :=
  if s.res then succeed [] { s with life := .opened (openRegs c), owned := configPins c, dir := .out }
  else fail .configurationError s

/-- `OPEN config` (R83): the lifecycle test (R90), validation (R84), then the program and its end. -/
def execOpen (c : BusConfig) (s : State) : Host.Outcome State Fault Refusal :=
  match s.life with
  | .opened _ => .next (fail .handleInvalid s)
  | .closed =>
    if valid c then .next (openDone c (runProgram (.openBus c) (openProg c) s))
    else .next (fail .configurationError s)

/-- The program of CLOSE (R92): every owned line released, in the reverse of the claim order. -/
def closeProg (r : OpenRegs) : List Stmt :=
  (pins r.cfg r.w4 r.canRead).reverse.map fun p => .op (.release p)

/-- The end of CLOSE (R92): nothing owned, `cfg`, `w4` and `can_read` without value. `TXB`, `RXB`, `CNT`, `h`, `rdata`,
`res` and `dir` keep what they held, where R30 and U8 give them no value while CLOSED (DESIGN CHOICE, unsafe: log entries
2 and 4). -/
def closeDone (s : State) : State := succeed [] { s with life := .closed, owned := [] }

/-- `CLOSE` (R92); while `CLOSED` it is undefined (R93): the sticky `fault` bit is set, the packet stays consumed, and
nothing else is known. -/
def execClose (s : State) : Host.Outcome State Fault Refusal :=
  match s.life with
  | .opened r => .next (closeDone (runProgram .closeBus (closeProg r) s))
  | .closed => .next { Config.afterClosedClose s with fault := true, commands := s.commands }

end Sys2Proof.Machine
end

