-- ==== Sys2Proof/Machine/Blocks.lean ====
section
/-! DEFINITION. The building blocks of the transfer commands as programs (spec/42_write.md R96 to R100,
spec/43_read.md R108 to R111). -/

namespace Sys2Proof.Machine

/-! ### Writes -/

/-- `DriveData8(b)` (R96): bit `i` on line `Di`, `D0` first. -/
def driveData8 (c : BusConfig) (b : Byte) : List Stmt :=
  [0, 1, 2, 3, 4, 5, 6, 7].map fun i : Fin 8 => .op (.write (gpio c (.d i)) (b.getLsbD i.val))

/-- `DriveData4(n)` (R97): bit `j` on line `D(4+j)`, `D4` first. -/
def driveData4 (c : BusConfig) (n : Nibble) : List Stmt :=
  [4, 5, 6, 7].map fun i : Fin 8 => .op (.write (gpio c (.d i)) (n.getLsbD (i.val - 4)))

/-- `WriteCycle` (R98): setup, the write strobe for the clock width, hold. -/
def writeCycle (c : BusConfig) : List Stmt :=
  [.op (.delay (delayNs c.tSu)),
   .op (.write (gpio c .ew) Config.ewActive),
   .op (.delay (delayNs c.tClk)),
   .op (.write (gpio c .ew) Config.ewIdle),
   .countEw,
   .op (.delay (delayNs c.tH))]

/-- `BusWrite(rs_level, b)` (R100): RS once, then one cycle, or two with the high nibble first. R100 does not write `h`:
writing it before each nibble, leaving it 1 after the byte and not writing it in 8-bit mode is a DESIGN CHOICE (log entry
17). -/
def busWrite (r : OpenRegs) (rsLevel : Level) (b : Byte) : List Stmt :=
  [.loadTxb b, .op (.write (gpio r.cfg .rs) rsLevel)] ++
    if r.w4 then
      .setPhase false :: driveData4 r.cfg (hiNibble b) ++ writeCycle r.cfg
        ++ .setPhase true :: driveData4 r.cfg (loNibble b) ++ writeCycle r.cfg
    else driveData8 r.cfg b ++ writeCycle r.cfg

/-! ### Reads -/

/-- `SampleData` (R109): one `Sample` a line in ascending order; line `i` fills bit `bit i` of `RXB`, at once (when the
byte being assembled takes a bit is a DESIGN CHOICE, log entry 17). -/
def sampleData (c : BusConfig) (ls : List (Fin 8)) (bit : Fin 8 → Nat) : List Stmt :=
  ls.flatMap fun i => [.op (.sample (gpio c (.d i))), .takeBit (bit i)]

/-- `ReadCycle` (R108): setup, the read strobe with the turnaround delay and the samples inside it, processing. -/
def readCycle (c : BusConfig) (ls : List (Fin 8)) (bit : Fin 8 → Nat) : List Stmt :=
  [.op (.delay (delayNs c.tSu)),
   .op (.write (gpio c .rw) Config.rwActive),
   .op (.delay (delayNs c.tRd))]
    ++ sampleData c ls bit ++
  [.op (.write (gpio c .rw) Config.rwIdle),
   .countRw,
   .op (.delay (delayNs c.tProc))]

/-- `BusRead()` (R110): one cycle, or two in 4-bit mode with the high nibble first; the byte is left in `RXB`. R110 does
not write `h`: writing it before each nibble, leaving it 1 after the byte and not writing it in 8-bit mode is a DESIGN
CHOICE (log entry 17). -/
def busRead (r : OpenRegs) : List Stmt :=
  if r.w4 then
    .setPhase false :: readCycle r.cfg [4, 5, 6, 7] (fun i => i.val)
      ++ .setPhase true :: readCycle r.cfg [4, 5, 6, 7] (fun i => i.val - 4)
  else readCycle r.cfg [0, 1, 2, 3, 4, 5, 6, 7] (fun i => i.val)

/-- The mode of every data line set, ascending (R111). -/
def turnLines (r : OpenRegs) (m : PadMode) : List Stmt :=
  (dataLines r.w4).map fun l => .op (.mode (gpio r.cfg l) m)

/-- The `n` byte reads of a read frame (R111), the counted loop unrolled. -/
def readBytes (r : OpenRegs) : Nat → List Stmt
  | 0 => []
  | n + 1 => busRead r ++ [.takeByte, .countDown] ++ readBytes r n

/-- `ReadFrame(rs_level, n)` (R111). -/
def readFrame (r : OpenRegs) (rsLevel : Level) (n : Word32) : List Stmt :=
  .op (.write (gpio r.cfg .rs) rsLevel) :: turnLines r .inp ++ [.setDir .inp, .loadCnt n, .clearData]
    ++ readBytes r n.toNat ++ turnLines r .out ++ [.setDir .out]

end Sys2Proof.Machine
end

