-- ==== Sys2Proof/Machine/Read.lean ====
section
/-! DEFINITION. The read commands RDB and RDR (spec/43_read.md). -/

namespace Sys2Proof.Machine

/-- The program of RDB (R112); a count of 0 still performs the frame (R114). -/
def rdbProg (r : OpenRegs) (count : Word32) : List Stmt := readFrame r Config.rsDataLevel count

/-- The end of RDB (R112): the bytes in the order read. -/
def rdbDone (s : State) : State := succeed s.rdata s

/-- `RDB count` (R112). -/
def execRdb (count : Word32) (s : State) : Host.Outcome State Fault Refusal :=
  match readCheck s with
  | .error k => .next (fail k s)
  | .ok r => .next (rdbDone (runProgram (.rdb count) (rdbProg r count) s))

/-- The program of RDR (R113). -/
def rdrProg (r : OpenRegs) : List Stmt := readFrame r Config.rsCmdLevel 1#32

/-- The end of RDR (R113). -/
def rdrDone (s : State) : State := succeed s.rdata s

/-- `RDR` (R113). -/
def execRdr (s : State) : Host.Outcome State Fault Refusal :=
  match readCheck s with
  | .error k => .next (fail k s)
  | .ok r => .next (rdrDone (runProgram .rdr (rdrProg r) s))

end Sys2Proof.Machine
end

