-- ==== Sys2Proof/Machine/Write.lean ====
section
/-! DEFINITION. The write commands WRC and WRB (spec/42_write.md). -/

namespace Sys2Proof.Machine

/-- The program of WRC (R101). -/
def wrcProg (r : OpenRegs) (b : Byte) : List Stmt := busWrite r Config.rsCmdLevel b

/-- The end of WRC (R101). -/
def wrcDone (s : State) : State := succeed [] s

/-- `WRC byte` (R101). -/
def execWrc (b : Byte) (s : State) : Host.Outcome State Fault Refusal :=
  match checkHandle s with
  | .error k => .next (fail k s)
  | .ok r => .next (wrcDone (runProgram (.wrc b) (wrcProg r b) s))

/-- The program of WRB (R103): the bytes back to back, RS rewritten for each; an empty block writes no line (R104). -/
def wrbProg (r : OpenRegs) (bytes : List Byte) : List Stmt :=
  .loadCnt (BitVec.ofNat 32 bytes.length)
    :: bytes.flatMap fun b => busWrite r Config.rsDataLevel b ++ [.countDown]

/-- The end of WRB (R103). -/
def wrbDone (s : State) : State := succeed [] s

/-- `WRB bytes` (R103). -/
def execWrb (bytes : List Byte) (s : State) : Host.Outcome State Fault Refusal :=
  match checkHandle s with
  | .error k => .next (fail k s)
  | .ok r => .next (wrbDone (runProgram (.wrb bytes) (wrbProg r bytes) s))

end Sys2Proof.Machine
end

