-- ==== Sys2Proof/Machine/Dispatch.lean ====
section
/-! DEFINITION. The dispatch of the commands to their meanings. -/

namespace Sys2Proof.Machine

/-- One command executed to completion (R46). -/
def exec (i : Instr) (s : State) : Host.Outcome State Fault Refusal :=
  match i with
  | .openBus c => Sys2Proof.Machine.execOpen c s
  | .wrc b => Sys2Proof.Machine.execWrc b s
  | .wrb bytes => Sys2Proof.Machine.execWrb bytes s
  | .rdb count => Sys2Proof.Machine.execRdb count s
  | .rdr => Sys2Proof.Machine.execRdr s
  | .closeBus => Sys2Proof.Machine.execClose s

end Sys2Proof.Machine
end

