-- ==== Sys2Proof/Machine/Sequencer.lean ====
section
/-! DEFINITION. A command in progress carried to its end, and a reserved opcode byte (spec/10_state.md R22,
spec/30_encoding.md R64). -/

namespace Sys2Proof.Machine

/-- How each command ends once its program is done. -/
def commandDone : Instr → State → State
  | .openBus c => openDone c
  | .wrc _ => wrcDone
  | .wrb _ => wrbDone
  | .rdb _ => rdbDone
  | .rdr => rdrDone
  | .closeBus => closeDone

/-- The rest of a command in progress: once started it runs to completion (R22, R44, R171). -/
def finishCommand (cmd : Instr) (rest : List Stmt) (s : State) : State := commandDone cmd (runStmts rest s)

/-- A reserved opcode byte (R64, R147): `BadOpcode`, and no other effect. -/
def badOpcode (s : State) : State := fail .badOpcode s

/-- The stream after a packet is consumed (R53, R66). -/
def State.consume (s : State) (rest : List Byte) : State := { s with commands := rest }

/-- A packet placed at the head of the command stream of an idle controller without fault. -/
def State.sendPacket (s : State) (packet : List Byte) : State :=
  { s with seq := .idle, fault := false, commands := packet ++ s.commands }

end Sys2Proof.Machine
end

