-- ==== Sys2Proof/Machine/Step.lean ====
section
/-! DEFINITION. One step of the machine: one packet of the command stream (spec/30_encoding.md R53), or the rest of a
command in progress. -/

namespace Sys2Proof.Machine

/-- One step. With the sticky fault set no rule applies (R155). While a command runs the host interface accepts
nothing (R22), so the step carries it to its end. Idle, the controller takes one whole packet, executes it and answers
(R53); a reserved opcode byte answers `BadOpcode` (R64); without a whole packet it waits (R66, U5). -/
def step (s : State) : Host.Outcome State Fault Refusal :=
  if s.fault then .fault .afterUndefined
  else
    match s.seq with
    | .run cmd _ rest => .next (finishCommand cmd rest s)
    | .idle =>
      match decode s.commands with
      | .command i rest => exec i (s.consume rest)
      | .badOpcode _ rest => .next (badOpcode (s.consume rest))
      | .incomplete => .refused .awaitingPacket

/-- The state in which the host's next packet is the opcode-table word `w` of `nbits` bits (log entry 6). -/
def State.withFetchWord (s : State) (nbits w : Nat) : State := s.sendPacket (tablePacket nbits w)

end Sys2Proof.Machine
end

