-- ==== Sys2Proof/Machine/Facade.lean ====
section
/-! DEFINITION. The Controller Façade's operations as the Bus Engine commands they issue (spec/45_host_facade.md): the
pseudo-instructions of R71, and what a call returns. It is host software, outside the hardware block (spec/00_scope.md
R5 e); no step reads it. -/

namespace Sys2Proof.Machine

/-- ChipState (R121): what the façade remembers. -/
structure ChipState where
  textHome : BitVec 16
  graphicHome : BitVec 16
  cgBase : BitVec 16
  modeSet : Byte
  displayMode : Byte
  deriving DecidableEq, Repr

/-- What a façade operation leaves: the ChipState, the commands issued in order, and whether `AlignmentWarning` is
surfaced (R138). -/
structure FacadeResult where
  chip : ChipState
  cmds : List Instr
  warning : Bool := false
  deriving DecidableEq, Repr

/-! ### Commands issued to the Bus Engine (R123, R138) -/

/-- How a façade call ends for its caller (R138): the machine after it, the error that came up from the Bus Engine, if
any, and the bytes read. -/
structure FacadeEnd where
  state : State
  error : Option ErrorKind
  data : List Byte
  deriving DecidableEq, Repr

/-- The data bytes of the response that a command appended (R67). -/
def responseData (s t : State) : List Byte := t.responses.drop (s.responses.length + 1)

/-- One command's part in a call: its data before those of the rest, its error before theirs. -/
def FacadeEnd.after (error : Option ErrorKind) (data : List Byte) (e : FacadeEnd) : FacadeEnd :=
  { e with error := error.or e.error, data := data ++ e.data }

/-- Commands issued in order, each once (R138: no retries). An error comes up unchanged and is the call's result (R123,
R138); whether the commands after it are issued is open, and `goOn` says so (DESIGN CHOICE, log entry 9).
The sticky fault bit and `seq` are not tested, although with the fault set no rule applies (R155, U14) and with a command
in progress none is taken (R22, U3): the answer in such a state is a DESIGN CHOICE, unsafe (log entry 9). -/
def issue (goOn : Bool) : List Instr → State → Host.Outcome FacadeEnd Fault Refusal
  | [], s => .next { state := s, error := none, data := [] }
  | i :: is, s =>
    match exec i s with
    | .next t =>
      if (errorOf t.status).isSome && !goOn then
        .next { state := t, error := errorOf t.status, data := responseData s t }
      else
        match issue goOn is t with
        | .next e => .next (e.after (errorOf t.status) (responseData s t))
        | .fault f => .fault f
        | .refused r => .refused r
    | .fault f => .fault f
    | .refused r => .refused r

/-- An open bus without a read strobe (R19). -/
def isWriteOnly (s : State) : Bool :=
  match s.life with
  | .closed => false
  | .opened r => !r.canRead

/-- A façade operation's commands issued to the Bus Engine (R138). -/
def FacadeResult.call (r : FacadeResult) (s : State) : Host.Outcome FacadeEnd Fault Refusal := issue false r.cmds s

/-- `le16(w)` (R140): low byte first. -/
def le16 (w : BitVec 16) : List Byte := [w.extractLsb' 0 8, w.extractLsb' 8 8]

/-- `send(w1..wm, opc)` (R123): all operand bytes in one WRB, then the opcode in one WRC. -/
def send (ws : List (BitVec 16)) (opc : Byte) : List Instr := [.wrb (ws.flatMap le16), .wrc opc]

/-! ### Address setters (R124 to R127) -/

/-- `set_text_home(addr)` (R124). -/
def setTextHome (addr : BitVec 16) (cs : ChipState) : FacadeResult :=
  { chip := { cs with textHome := addr }, cmds := send [addr] Config.opcSetTextHome }

/-- `set_graphic_home(addr)` (R124). -/
def setGraphicHome (addr : BitVec 16) (cs : ChipState) : FacadeResult :=
  { chip := { cs with graphicHome := addr }, cmds := send [addr] Config.opcSetGraphicHome }

/-- An address rounded down to `CG_ALIGN` (R125). -/
def alignDown (addr : BitVec 16) : BitVec 16 := BitVec.ofNat 16 (addr.toNat - addr.toNat % Config.cgAlign)

/-- `set_cg_offset(addr)` (R125): the rounded address, with a warning when rounding changed it. -/
def setCgOffset (addr : BitVec 16) (cs : ChipState) : FacadeResult :=
  { chip := { cs with cgBase := alignDown addr }, cmds := send [alignDown addr] Config.opcSetCgOffset,
    warning := decide (alignDown addr ≠ addr) }

/-- `set_address_pointer(addr)` (R126). -/
def setAddressPointer (addr : BitVec 16) : List Instr := send [addr] Config.opcSetAddressPointer

/-- `text_home()` (R126): the commands and the address returned. -/
def textHomeNav (cs : ChipState) : List Instr × BitVec 16 := (setAddressPointer cs.textHome, cs.textHome)

/-- `graphic_home()` (R126). -/
def graphicHomeNav (cs : ChipState) : List Instr × BitVec 16 := (setAddressPointer cs.graphicHome, cs.graphicHome)

/-- `cg_home()` (R126). -/
def cgHomeNav (cs : ChipState) : List Instr × BitVec 16 := (setAddressPointer cs.cgBase, cs.cgBase)

/-- `set_cursor(x, y)` (R127): the word `256*y + x`, modulo `2^16` (decision D36). -/
def setCursor (x y : Nat) : List Instr := send [BitVec.ofNat 16 (256 * y + x)] Config.opcSetCursorPointer

/-! ### Single bytes (R128 to R130) -/

/-- The commands of a façade read (R128, R132): the opcode, then the `RDB`. On a write-only bus whether the opcode is
sent is open (N20); the `RDB` is issued and fails (log entry 9). -/
def readCmds (opc : Byte) (count : Word32) (writeOnly : Bool) : List Instr :=
  (if !writeOnly || Config.sendsReadOpcode then [.wrc opc] else []) ++ [.rdb count]

/-- A façade read of one byte (R128): the byte, or the error that came up. -/
def readData (opc : Byte) (s : State) : Host.Outcome FacadeEnd Fault Refusal :=
  issue false (readCmds opc 1#32 (isWriteOnly s)) s

/-- `read_increment` (R128). -/
def readIncrement (s : State) : Host.Outcome FacadeEnd Fault Refusal := readData Config.opcDataReadInc s

/-- `read_decrement` (R128); its opcode stays open (R139). -/
def readDecrement (s : State) : Host.Outcome FacadeEnd Fault Refusal := readData Config.opcDataReadDec s

/-- `read_nonvariable` (R128). -/
def readNonvariable (s : State) : Host.Outcome FacadeEnd Fault Refusal := readData Config.opcDataReadNonvar s

/-- A façade write (R129): the data byte, then the opcode. -/
def writeData (opc b : Byte) : List Instr := [.wrb [b], .wrc opc]

/-- `write_increment(b)` (R129). -/
def writeIncrement (b : Byte) : List Instr := writeData Config.opcDataWriteInc b

/-- `write_decrement(b)` (R129). -/
def writeDecrement (b : Byte) : List Instr := writeData Config.opcDataWriteDec b

/-- `write_nonvariable(b)` (R129). -/
def writeNonvariable (b : Byte) : List Instr := writeData Config.opcDataWriteNonvar b

/-! ### Blocks (R131 to R134) -/

/-- `bulk_write(ptr, len)` (R131), given the bytes of the caller's buffer. -/
def bulkWrite (bytes : List Byte) : List Instr :=
  [.wrc Config.opcAutoWrite, .wrb bytes, .wrc Config.opcAutoReset]

/-- The commands of `bulk_read(ptr, len)` (R132). On a write-only bus the `RDB` fails, and which opcodes are sent around
it is open (N20). -/
def bulkReadCmds (len : Word32) (writeOnly : Bool) : List Instr :=
  readCmds Config.opcAutoRead len writeOnly
    ++ if !writeOnly || Config.sendsAutoReset then [.wrc Config.opcAutoReset] else []

/-- `bulk_read(ptr, len)` (R132): the bytes for the caller's buffer, or the error that came up. On a write-only bus the
commands after the failing `RDB` are those that are sent all the same. -/
def bulkRead (len : Word32) (s : State) : Host.Outcome FacadeEnd Fault Refusal :=
  issue (isWriteOnly s) (bulkReadCmds len (isWriteOnly s)) s

/-- A glyph's 8 bytes, most significant first (R133). -/
def glyphBytes (g : BitVec 64) : List Byte :=
  [g.extractLsb' 56 8, g.extractLsb' 48 8, g.extractLsb' 40 8, g.extractLsb' 32 8,
   g.extractLsb' 24 8, g.extractLsb' 16 8, g.extractLsb' 8 8, g.extractLsb' 0 8]

/-- The address of `define_chars` (R134), modulo `2^16` (decision D36). -/
def charAddress (cs : ChipState) (startIndex : Nat) : BitVec 16 :=
  BitVec.ofNat 16 (cs.cgBase.toNat + 128 * 8 + startIndex * 8)

/-- `define_chars(glyphs, start_index)` (R134). -/
def defineChars (glyphs : List (BitVec 64)) (startIndex : Nat) (cs : ChipState) : List Instr :=
  setAddressPointer (charAddress cs startIndex) ++ bulkWrite (glyphs.flatMap glyphBytes)

/-! ### Start-up and modes (R135, R136) -/

/-- The commands of `startup()` (R135), after the pulse on the chip's reset line, which is no line of the Bus Engine.
The two area widths are arguments: no source says where they come from (N17). -/
def startup (textArea graphicArea : BitVec 16) (cs : ChipState) : FacadeResult :=
  { chip := cs,
    cmds := send [cs.textHome] Config.opcSetTextHome ++ send [textArea] Config.opcSetTextArea
      ++ send [cs.graphicHome] Config.opcSetGraphicHome ++ send [graphicArea] Config.opcSetGraphicArea
      ++ send [cs.cgBase] Config.opcSetCgOffset }

/-- A whole mode byte sent with its opcode (R136); how they travel together is open (N21). -/
def sendFlagByte (opc b : Byte) : List Instr :=
  if Config.flagByteCombined then [.wrc (opc ||| b)] else [.wrb [b], .wrc opc]

/-- `set_mode` and its like (R136): one flag bit of the mode-set byte, then the whole byte. -/
def setModeFlag (bit : Nat) (v : Bool) (cs : ChipState) : FacadeResult :=
  let b := setBit cs.modeSet bit v
  { chip := { cs with modeSet := b }, cmds := sendFlagByte Config.opcModeSet b }

/-- `set_display_mode`, `set_cursor_blink` and their like (R136): one flag bit of the display-mode byte, then the whole
byte. The bit positions are in no source (N17). -/
def setDisplayFlag (bit : Nat) (v : Bool) (cs : ChipState) : FacadeResult :=
  let b := setBit cs.displayMode bit v
  { chip := { cs with displayMode := b }, cmds := sendFlagByte Config.opcDisplayMode b }

end Sys2Proof.Machine
end

