-- ==== Sys2Proof/Safety.lean ====
section
/-! DEFINITION. What claims speak of: the state between commands, strobe pulses of a trace, micro-programs, and the end
of a run (spec/10_state.md R22, R28, R32; spec/70_reset_and_hazards.md R183). -/

namespace Sys2Proof.Machine

/-- What holds of an open controller between commands (R32 a to d, R25), with what OPEN fixed (R84, R85). -/
structure OpenInv (r : OpenRegs) (s : State) : Prop where
  valid_cfg : valid r.cfg = true
  w4_eq : r.w4 = width4 r.cfg
  canRead_eq : r.canRead = readable r.cfg
  owned_eq : s.owned = configPins r.cfg
  pads_claimed : ∀ p ∈ s.owned, (s.pad p).claimed = true
  pads_out : ∀ p ∈ s.owned, (s.pad p).mode = .out
  ew_idle : (s.pad (gpio r.cfg .ew)).latch = Config.ewIdle
  rw_idle : r.canRead = true → (s.pad (gpio r.cfg .rw)).latch = Config.rwIdle
  dir_out : s.dir = .out

/-- What holds between commands in either lifecycle state (R21, R32). -/
def Between (s : State) : Prop :=
  s.seq = .idle ∧
    match s.life with
    | .closed => s.owned = []
    | .opened r => OpenInv r s

/-- The invariant of the machine: between commands, or past an undefined CLOSE (R32 and R155 take `fault = 0`). -/
def Inv (s : State) : Prop := s.fault = true ∨ Between s

/-- Strobe pulses in a trace (R28, R99): writes of the active level to `p`, each followed later by a write of the idle
level. `armed` says that the strobe is asserted. -/
def pulsesFrom (p : Nat) (active : Level) : Bool → List Event → Nat
  | _, [] => 0
  | armed, .write q v :: es =>
    if q = p then
      if v = active then pulsesFrom p active true es
      else (if armed then 1 else 0) + pulsesFrom p active false es
    else pulsesFrom p active armed es
  | armed, _ :: es => pulsesFrom p active armed es

/-- The strobe pulses on `p` in a trace that starts with the strobe idle. -/
def pulses (p : Nat) (active : Level) (es : List Event) : Nat := pulsesFrom p active false es

/-- The levels sampled in a trace, in order. -/
def samples (es : List Event) : List Level :=
  es.filterMap fun e => match e with
    | .sample _ v => some v
    | _ => none

/-- Where bit `i` of a byte stands among the eight samples of that byte: in 4-bit mode the high nibble comes first
(R109, R110). -/
def bitPlace (w4 : Bool) (i : Nat) : Nat := if w4 then (i + 4) % 8 else i

/-- `microprog` (R22): the flat list of the micro-operations of a program. -/
def microOps (prog : List Stmt) : List MicroOp := prog.filterMap Stmt.microOp

/-- The nanoseconds that the delays of a list of micro-operations sum to (R28, R180). -/
def delaySum : List MicroOp → Nat
  | [] => 0
  | .delay d :: os => d + delaySum os
  | _ :: os => delaySum os

/-- The number of strobe cycles a byte takes: `k` of R105, R117 and R180. -/
def cyclesPerByte (r : OpenRegs) : Nat := if r.w4 then 2 else 1

/-- A run has ended (R183): nothing is left to execute. A state whose sticky fault bit is set is never final (R93,
R155). That a run whose stream ends inside a packet has not ended is a DESIGN CHOICE: R183 does not say (log entry 18). -/
def ended (s : State) : Bool := !s.fault && decide (s.seq = .idle) && decide (s.commands = [])

/-- The end state is clean (R183). -/
def clean (s : State) : Bool := !s.fault && decide (s.life = .closed)

end Sys2Proof.Machine
end

