-- ==== Sys2Proof/Certificates/Slice0/Obligations.lean ====
section
/-! DEFINITION. The statements for the provers, and the words they are written in. Bus activity is listed here event by
event from the spec's pseudocode, not through the model's program builders. -/

namespace Sys2Proof.Claims

open Sys2Proof.Machine

/-! ### Bus activity, event by event -/

/-- `WriteCycle` (R98). -/
def writeCycleEvents (c : BusConfig) : List Event :=
  [.delay c.tSu.toNat, .write c.ew.toNat Config.ewActive, .delay c.tClk.toNat, .write c.ew.toNat Config.ewIdle,
   .delay c.tH.toNat]

/-- `BusWrite(rs_level, b)` (R96, R97, R100), 14 events in 8-bit mode and 19 in 4-bit mode. -/
def writeByteEvents (r : OpenRegs) (rsLevel : Level) (b : Byte) : List Event :=
  .write r.cfg.rs.toNat rsLevel ::
    if r.w4 then
      [.write r.cfg.d4.toNat (b.getLsbD 4), .write r.cfg.d5.toNat (b.getLsbD 5), .write r.cfg.d6.toNat (b.getLsbD 6),
       .write r.cfg.d7.toNat (b.getLsbD 7)] ++ writeCycleEvents r.cfg ++
      [.write r.cfg.d4.toNat (b.getLsbD 0), .write r.cfg.d5.toNat (b.getLsbD 1), .write r.cfg.d6.toNat (b.getLsbD 2),
       .write r.cfg.d7.toNat (b.getLsbD 3)] ++ writeCycleEvents r.cfg
    else
      [.write r.cfg.d0.toNat (b.getLsbD 0), .write r.cfg.d1.toNat (b.getLsbD 1), .write r.cfg.d2.toNat (b.getLsbD 2),
       .write r.cfg.d3.toNat (b.getLsbD 3), .write r.cfg.d4.toNat (b.getLsbD 4), .write r.cfg.d5.toNat (b.getLsbD 5),
       .write r.cfg.d6.toNat (b.getLsbD 6), .write r.cfg.d7.toNat (b.getLsbD 7)] ++ writeCycleEvents r.cfg

/-- The GPIO numbers of the data lines (R21), in ascending order. -/
def dataPins (r : OpenRegs) : List Nat :=
  (if r.w4 then [] else [r.cfg.d0.toNat, r.cfg.d1.toNat, r.cfg.d2.toNat, r.cfg.d3.toNat]) ++
    [r.cfg.d4.toNat, r.cfg.d5.toNat, r.cfg.d6.toNat, r.cfg.d7.toNat]

/-- `ReadCycle` (R108, R109) on the data lines of the mode. -/
def readCycleOps (r : OpenRegs) : List MicroOp :=
  [.delay r.cfg.tSu.toNat, .write r.cfg.rw.toNat Config.rwActive, .delay r.cfg.tRd.toNat] ++
    (dataPins r).map .sample ++ [.write r.cfg.rw.toNat Config.rwIdle, .delay r.cfg.tProc.toNat]

/-- `BusRead()` (R110). -/
def readByteOps (r : OpenRegs) : List MicroOp :=
  if r.w4 then readCycleOps r ++ readCycleOps r else readCycleOps r

/-- `ReadFrame(rs_level, n)` (R111). -/
def readFrameOps (r : OpenRegs) (rsLevel : Level) (n : Nat) : List MicroOp :=
  .write r.cfg.rs.toNat rsLevel :: (dataPins r).map (fun p => .mode p .inp)
    ++ (List.replicate n (readByteOps r)).flatten ++ (dataPins r).map (fun p => .mode p .out)

/-! ### Frames -/

/-- What every transfer command leaves alone, run or refused (R95, R102, R116). -/
structure TransferFrame (s t : State) : Prop where
  life : t.life = s.life
  owned : t.owned = s.owned
  fault : t.fault = s.fault
  commands : t.commands = s.commands
  idle : t.seq = .idle
  oracle : s.dev = .oracle → t.dev = .oracle
  claimed : ∀ p, (t.pad p).claimed = (s.pad p).claimed

/-- What a write command leaves alone besides (R98, R102): every pad it does not drive, every mode, the read side. -/
structure WriteFrame (r : OpenRegs) (s t : State) : Prop extends TransferFrame s t where
  mode : ∀ p, (t.pad p).mode = (s.pad p).mode
  pad : ∀ p, p ∉ dataPins r → p ≠ r.cfg.rs.toNat → p ≠ r.cfg.ew.toNat → t.pad p = s.pad p
  dir : t.dir = s.dir
  rxb : t.rxb = s.rxb
  rdata : t.rdata = s.rdata
  res : t.res = s.res
  draws : t.draws = s.draws
  nRw : t.nRw = s.nRw

/-- What a read command leaves alone besides (R111, R116): every pad it does not use, every latch but RS and RW, the
write side. -/
structure ReadFrame (r : OpenRegs) (s t : State) : Prop extends TransferFrame s t where
  latch : ∀ p, p ≠ r.cfg.rs.toNat → p ≠ r.cfg.rw.toNat → (t.pad p).latch = (s.pad p).latch
  pad : ∀ p, p ∉ dataPins r → p ≠ r.cfg.rs.toNat → p ≠ r.cfg.rw.toNat → t.pad p = s.pad p
  txb : t.txb = s.txb
  nEw : t.nEw = s.nEw

/-- What a micro-operation leaves alone besides the pads (R73 to R79): all but the trace, `mpc`, and what its own kind
changes. -/
structure MicroOpFrame (o : MicroOp) (s t : State) : Prop where
  life : t.life = s.life
  owned : t.owned = s.owned
  idle : s.seq = .idle → t.seq = .idle
  mpc : ∀ cmd mpc rest, s.seq = .run cmd mpc rest → t.seq = .run cmd (mpc + 1) rest
  txb : t.txb = s.txb
  rxb : t.rxb = s.rxb
  cnt : t.cnt = s.cnt
  h : t.h = s.h
  rdata : t.rdata = s.rdata
  status : t.status = s.status
  fault : t.fault = s.fault
  dir : t.dir = s.dir
  nEw : t.nEw = s.nEw
  nRw : t.nRw = s.nRw
  commands : t.commands = s.commands
  responses : t.responses = s.responses
  oracle : s.dev = .oracle → t.dev = .oracle
  dev : (∀ p v, o ≠ .write p v) → t.dev = s.dev
  res : (∀ p, o ≠ .claim p) → (∀ p, o ≠ .sample p) → t.res = s.res
  draws : t.draws = s.draws + (match o with
    | .sample _ => 1
    | .claim _ | .release _ | .mode _ _ | .write _ _ | .delay _ => 0)
  tmin : t.tmin = s.tmin + (match o with
    | .delay d => d
    | .claim _ | .release _ | .mode _ _ | .write _ _ | .sample _ => 0)

/-- A command turned away before its first micro-operation (R152, R153): a status code and its one-byte response. -/
def turnedAway (code : Byte) (s : State) : State :=
  { s with status := code, responses := s.responses ++ [code], seq := .idle }

/-- The controller is idle, without fault. -/
def Idle (s : State) : Prop := s.fault = false ∧ s.seq = .idle

end Sys2Proof.Claims

open Sys2Proof Sys2Proof.Machine Sys2Proof.Claims

/-! ### Encoding -/

/-- The decoder reads every well-formed command back from its packet, whatever follows (R54 to R66). -/
def Obligations.DecodeReadsBackEveryCommand : Prop :=
  ∀ (i : Instr) (rest : List Byte), i.wf = true → decode (encode i ++ rest) = .command i rest

/-- What the decoder reads as a command is that command's packet, consumed whole (R66). -/
def Obligations.DecodedPacketIsItsEncoding : Prop :=
  ∀ (bs : List Byte) (i : Instr) (rest : List Byte),
    decode bs = .command i rest → i.wf = true ∧ bs = encode i ++ rest

/-- R64: a reserved opcode byte answers `04` and changes nothing else, and the decoder is total on opcode bytes. -/
def Obligations.ReservedOpcodeAnswersBadOpcode : Prop :=
  (∀ (s : State) (op : Byte) (rest : List Byte), Idle s → (op = 0x00#8 ∨ 7 ≤ op.toNat) → s.commands = op :: rest →
    step s = .next { s with commands := rest, status := 0x04#8, responses := s.responses ++ [0x04#8] }) ∧
  (∀ (op : Byte) (bs : List Byte), (1 ≤ op.toNat ∧ op.toNat ≤ 6) ∨ decode (op :: bs) = .badOpcode op bs)

/-- Packets written out from R57 to R62 decode to the commands they stand for (sanity). -/
def Obligations.PacketsDecodeAsWrittenOut : Prop :=
  decode [0x02#8, 0xC2#8] = .command (.wrc 0xC2#8) [] ∧
  decode [0x03#8, 0x02#8, 0x00#8, 0x00#8, 0x00#8, 0x34#8, 0x12#8] = .command (.wrb [0x34#8, 0x12#8]) [] ∧
  decode [0x04#8, 0x00#8, 0x01#8, 0x00#8, 0x00#8, 0x05#8] = .command (.rdb 256#32) [0x05#8] ∧
  decode [0x05#8] = .command .rdr [] ∧
  decode [0x06#8] = .command .closeBus []

/-- A stream that ends inside a packet is no command: the controller waits (R66, U5). That the wait is the refusal
`awaitingPacket` is the model's form of `stuck` (log entry 7). -/
def Obligations.PacketCutShortWaits : Prop :=
  ∀ (s : State) (i : Instr) (n : Nat), Idle s → i.wf = true → n < (encode i).length →
    s.commands = (encode i).take n → step s = .refused .awaitingPacket

/-- A step of an idle controller executes the command at the head of the stream, its packet consumed (R53). -/
def Obligations.StepExecutesTheDecodedCommand : Prop :=
  ∀ (s : State) (i : Instr) (rest : List Byte), Idle s → decode s.commands = .command i rest →
    step s = exec i { s with commands := rest }

/-- The state that holds an opcode-table word next runs the command that word decodes to (the model's interface, log
entry 6). -/
def Obligations.FetchWordRunsItsCommand : Prop :=
  ∀ (s : State) (nbits w : Nat) (i : Instr), decodeTableWord nbits w = some i →
    step (s.withFetchWord nbits w) = exec i { s with seq := .idle, fault := false }

/-! ### Reset -/

/-- R163: the reset state. `CLOSED` means that `cfg` has no value. -/
def Obligations.ResetIsTheLaunchState : Prop :=
  State.reset.life = .closed ∧ State.reset.seq = .idle ∧ State.reset.owned = [] ∧ State.reset.status = 0x00#8 ∧
    State.reset.fault = false ∧ State.reset.trace = [] ∧ State.reset.tmin = 0 ∧ State.reset.nEw = 0 ∧
    State.reset.nRw = 0

/-- The reset state meets the invariant. -/
def Obligations.ResetMeetsTheInvariant : Prop := Inv State.reset

/-! ### OPEN and CLOSE -/

/-- R84: `valid(c)` is V1 to V6, written out on the fields, and an OPEN whose image is not valid answers
`ConfigurationError` without touching a pin. -/
def Obligations.ConfigValidityIsV1ToV6 : Prop :=
  (∀ c : BusConfig, valid c = true ↔
    c.tag = 0x00#8 ∧
    (0 ≤ c.tSu.toInt ∧ 0 ≤ c.tClk.toInt ∧ 0 ≤ c.tRd.toInt ∧ 0 ≤ c.tProc.toInt ∧ 0 ≤ c.tH.toInt) ∧
    (c.rs.toNat ≤ 27 ∧ c.ew.toNat ≤ 27) ∧
    (c.d4.toNat ≤ 27 ∧ c.d5.toNat ≤ 27 ∧ c.d6.toNat ≤ 27 ∧ c.d7.toNat ≤ 27) ∧
    ((c.d0 = 0xFF#8 ∧ c.d1 = 0xFF#8 ∧ c.d2 = 0xFF#8 ∧ c.d3 = 0xFF#8) ∨
      (c.d0.toNat ≤ 27 ∧ c.d1.toNat ≤ 27 ∧ c.d2.toNat ≤ 27 ∧ c.d3.toNat ≤ 27)) ∧
    ((if c.d0 = 0xFF#8 then [] else [c.d0, c.d1, c.d2, c.d3]) ++ [c.d4, c.d5, c.d6, c.d7, c.rs, c.ew]
      ++ (if c.rw.toNat ≤ 27 then [c.rw] else [])).Nodup) ∧
  (∀ (c : BusConfig) (s : State), s.life = .closed → valid c = false →
    exec (.openBus c) s = .next (turnedAway 0x01#8 s))

/-- R85: the width and the readability that a successful OPEN latches. -/
def Obligations.OpenLatchesWidthAndReadability : Prop :=
  ∀ (c : BusConfig) (s t : State), s.life = .closed → valid c = true → exec (.openBus c) s = .next t →
    t.status = 0x00#8 →
    ∃ r, t.life = .opened r ∧ r.cfg = c ∧
      (r.w4 = true ↔ c.d0 = 0xFF#8 ∧ c.d1 = 0xFF#8 ∧ c.d2 = 0xFF#8 ∧ c.d3 = 0xFF#8) ∧
      (r.w4 = false ↔ c.d0.toNat ≤ 27 ∧ c.d1.toNat ≤ 27 ∧ c.d2.toNat ≤ 27 ∧ c.d3.toNat ≤ 27) ∧
      (r.canRead = true ↔ c.rw.toNat ≤ 27)

/-- R87, with R86 and R88: OPEN on a closed controller, of a valid configuration whose pins are all unclaimed, claims
the lines in order, writes each initial level and then sets the mode, and commits; nothing else changes. -/
def Obligations.OpenClaimsInitialisesAndCommits : Prop :=
  ∀ (c : BusConfig) (s : State), s.life = .closed → valid c = true →
    (∀ p ∈ configPins c, (s.pad p).claimed = false) →
    ∃ t, exec (.openBus c) s = .next t ∧
      t.life = .opened { cfg := c, w4 := width4 c, canRead := readable c } ∧
      t.owned = configPins c ∧ t.dir = .out ∧ t.status = 0x00#8 ∧ t.responses = s.responses ++ [0x00#8] ∧
      t.seq = .idle ∧
      t.trace = s.trace ++ (configPins c).map (fun p => .claim p true) ++
        (configLines c).flatMap (fun l =>
          [.write (gpio c l)
            (match l with
              | .d _ => false
              | .rs => Config.rsDataLevel
              | .ew => Config.ewIdle
              | .rw => Config.rwIdle),
           .mode (gpio c l) .out]) ∧
      (∀ l ∈ configLines c, t.pad (gpio c l) =
        { claimed := true, mode := .out,
          latch := match l with
            | .d _ => false
            | .rs => Config.rsDataLevel
            | .ew => Config.ewIdle
            | .rw => Config.rwIdle }) ∧
      (∀ p, p ∉ configPins c → t.pad p = s.pad p) ∧
      t.tmin = s.tmin ∧ t.nEw = s.nEw ∧ t.nRw = s.nRw ∧ t.fault = s.fault ∧ t.commands = s.commands ∧
      t.txb = s.txb ∧ t.rxb = s.rxb ∧ t.cnt = s.cnt ∧ t.h = s.h ∧ t.rdata = s.rdata ∧ t.draws = s.draws ∧
      (s.dev = .oracle → t.dev = .oracle)

/-- R86: a refused claim ends OPEN: the pins granted are released in the reverse order, and no pad is changed. -/
def Obligations.OpenUndoesARefusedClaim : Prop :=
  ∀ (c : BusConfig) (s : State) (granted : List Nat) (p : Nat) (later : List Nat), s.life = .closed → valid c = true →
    configPins c = granted ++ p :: later → (∀ q ∈ granted, (s.pad q).claimed = false) → (s.pad p).claimed = true →
    ∃ t, exec (.openBus c) s = .next t ∧
      t.trace = s.trace ++ granted.map (fun q => .claim q true) ++ .claim p false ::
        granted.reverse.map (fun q => .release q) ∧
      t.life = .closed ∧ t.owned = s.owned ∧ (∀ q, t.pad q = s.pad q) ∧ t.status = 0x01#8 ∧
      t.responses = s.responses ++ [0x01#8] ∧ t.seq = .idle ∧ t.tmin = s.tmin ∧ t.nEw = s.nEw ∧ t.nRw = s.nRw ∧
      t.fault = s.fault ∧ t.commands = s.commands ∧ t.dev = s.dev ∧ t.dir = s.dir ∧ t.txb = s.txb ∧ t.rxb = s.rxb ∧
      t.cnt = s.cnt ∧ t.h = s.h ∧ t.rdata = s.rdata ∧ t.draws = s.draws

/-- R90: OPEN while `OPEN`, valid image or not. -/
def Obligations.OpenWhileOpenIsHandleInvalid : Prop :=
  ∀ (s : State) (r : OpenRegs) (c : BusConfig) (rest : List Byte), Idle s → s.life = .opened r →
    s.commands = encode (.openBus c) ++ rest →
    step s = .next { s with commands := rest, status := 0x03#8, responses := s.responses ++ [0x03#8] }

/-- R89: an OPEN that fails, for whatever reason, leaves the controller and every pad as they were. -/
def Obligations.FailedOpenChangesNothing : Prop :=
  ∀ (c : BusConfig) (s t : State), exec (.openBus c) s = .next t → t.status ≠ 0x00#8 →
    t.life = s.life ∧ t.owned = s.owned ∧ ∀ p, t.pad p = s.pad p

/-- R92: CLOSE while `OPEN` releases every line in the reverse of the claim order, keeps each mode and latch, and
leaves the controller `CLOSED` without a configuration. -/
def Obligations.CloseReleasesInReverse : Prop :=
  ∀ (s : State) (r : OpenRegs), s.life = .opened r →
    ∃ t, exec .closeBus s = .next t ∧
      t.trace = s.trace ++ ((if r.canRead then [.release r.cfg.rw.toNat] else []) ++
        [.release r.cfg.ew.toNat, .release r.cfg.rs.toNat] ++ (dataPins r).reverse.map (fun p => .release p)) ∧
      t.life = .closed ∧ t.owned = [] ∧ t.status = 0x00#8 ∧ t.responses = s.responses ++ [0x00#8] ∧ t.seq = .idle ∧
      (∀ p, (t.pad p).mode = (s.pad p).mode ∧ (t.pad p).latch = (s.pad p).latch) ∧
      (∀ p, p < 28 → p ∈ pins r.cfg r.w4 r.canRead → (t.pad p).claimed = false) ∧
      (∀ p, p ∉ pins r.cfg r.w4 r.canRead → t.pad p = s.pad p) ∧
      t.tmin = s.tmin ∧ t.nEw = s.nEw ∧ t.nRw = s.nRw ∧ t.fault = s.fault ∧ t.commands = s.commands ∧
      t.dev = s.dev ∧ t.draws = s.draws

/-- CLOSE leaves the data-path registers and `dir` as they were. No rule gives them a value while `CLOSED` (R30, U8): that
they keep their last ones is the model's choice (log entries 2 and 4). -/
def Obligations.CloseKeepsTheDataPathRegisters : Prop :=
  ∀ (s : State) (r : OpenRegs), s.life = .opened r →
    ∃ t, exec .closeBus s = .next t ∧ t.txb = s.txb ∧ t.rxb = s.rxb ∧ t.cnt = s.cnt ∧ t.h = s.h ∧ t.rdata = s.rdata ∧
      t.res = s.res ∧ t.dir = s.dir

/-- CLOSE while `CLOSED` sets the sticky fault (R93). That its packet is consumed is the model's own choice, DEDUCED from
the packet rules (log entry 5, unsafe there); every other field is a free value, and nothing is claimed of it. -/
def Obligations.CloseWhileClosedSetsTheFault : Prop :=
  ∀ s : State, s.life = .closed → ∃ t, exec .closeBus s = .next t ∧ t.fault = true ∧ t.commands = s.commands

/-- A state whose sticky fault is set is never final (R93, R155), and no rule applies to it: no step is taken (U14; the
stop is the model's, log entry 7). -/
def Obligations.StickyFaultStopsEveryStep : Prop :=
  ∀ s : State, s.fault = true → step s = .fault .afterUndefined ∧ ended s = false

/-- Only a CLOSE while `CLOSED` sets the sticky fault (R24, R93). -/
def Obligations.OnlyClosedCloseSetsTheFault : Prop :=
  ∀ s t : State, s.fault = false → step s = .next t → t.fault = true →
    s.seq = .idle ∧ s.life = .closed ∧ ∃ rest, decode s.commands = .command .closeBus rest

/-! ### Writes -/

/-- R101: WRC. -/
def Obligations.WrcWritesOneCommandByte : Prop :=
  (∀ (s : State) (b : Byte), s.life = .closed → exec (.wrc b) s = .next (turnedAway 0x03#8 s)) ∧
  (∀ (s : State) (r : OpenRegs) (b : Byte), s.life = .opened r →
    ∃ t, exec (.wrc b) s = .next t ∧ WriteFrame r s t ∧
      t.trace = s.trace ++ writeByteEvents r Config.rsCmdLevel b ∧
      t.status = 0x00#8 ∧ t.responses = s.responses ++ [0x00#8] ∧ t.txb = b ∧ t.cnt = s.cnt)

/-- R102: the state after WRC. -/
def Obligations.WrcLeavesTheByteOnTheLines : Prop :=
  ∀ (s : State) (r : OpenRegs) (b : Byte), s.life = .opened r → OpenInv r s →
    ∃ t, exec (.wrc b) s = .next t ∧
      (t.pad r.cfg.rs.toNat).latch = Config.rsCmdLevel ∧ (t.pad r.cfg.ew.toNat).latch = Config.ewIdle ∧
      (r.w4 = false → ∀ i : Fin 8, (t.pad (gpio r.cfg (.d i))).latch = b.getLsbD i.val) ∧
      (r.w4 = true → ∀ j : Fin 4, (t.pad (gpio r.cfg (.d (j.natAdd 4)))).latch = b.getLsbD j.val) ∧
      t.dir = .out ∧ t.life = s.life

/-- R103: WRB, a block of bytes back to back. -/
def Obligations.WrbWritesEveryByteInOrder : Prop :=
  (∀ (s : State) (bytes : List Byte), s.life = .closed → exec (.wrb bytes) s = .next (turnedAway 0x03#8 s)) ∧
  (∀ (s : State) (r : OpenRegs) (bytes : List Byte), s.life = .opened r →
    ∃ t, exec (.wrb bytes) s = .next t ∧ WriteFrame r s t ∧
      t.trace = s.trace ++ bytes.flatMap (writeByteEvents r Config.rsDataLevel) ∧
      t.status = 0x00#8 ∧ t.responses = s.responses ++ [0x00#8] ∧ t.cnt = 0#32 ∧
      t.txb = bytes.getLastD s.txb)

/-- The state after a WRB of at least one byte (R32 e, with R100): RS at the data level, the last byte on the data
lines, or its low nibble on `D7..D4` in 4-bit mode. -/
def Obligations.WrbLeavesTheLastByteOnTheLines : Prop :=
  ∀ (s : State) (r : OpenRegs) (bytes : List Byte) (b : Byte), s.life = .opened r → OpenInv r s →
    ∃ t, exec (.wrb (bytes ++ [b])) s = .next t ∧
      (t.pad r.cfg.rs.toNat).latch = Config.rsDataLevel ∧ (t.pad r.cfg.ew.toNat).latch = Config.ewIdle ∧
      (r.w4 = false → ∀ i : Fin 8, (t.pad (gpio r.cfg (.d i))).latch = b.getLsbD i.val) ∧
      (r.w4 = true → ∀ j : Fin 4, (t.pad (gpio r.cfg (.d (j.natAdd 4)))).latch = b.getLsbD j.val) ∧
      t.dir = .out ∧ t.life = s.life

/-- R104: the empty WRB. -/
def Obligations.EmptyWrbTouchesNothing : Prop :=
  (∀ (s : State) (r : OpenRegs), s.life = .opened r →
    exec (.wrb []) s = .next { s with cnt := 0#32, status := 0x00#8, responses := s.responses ++ [0x00#8], seq := .idle }) ∧
  (∀ s : State, s.life = .closed → exec (.wrb []) s = .next (turnedAway 0x03#8 s))

/-- A block is its pieces: a WRB of `a ++ b` does on the bus what a WRB of `a` and then one of `b` do (R103). -/
def Obligations.WrbSplitsWithoutFraming : Prop :=
  ∀ (s : State) (r : OpenRegs) (a b : List Byte), s.life = .opened r →
    ∃ t u v, exec (.wrb (a ++ b)) s = .next t ∧ exec (.wrb a) s = .next u ∧ exec (.wrb b) u = .next v ∧
      t.trace = v.trace ∧ t.pads = v.pads ∧ t.dev = v.dev ∧ t.tmin = v.tmin ∧ t.nEw = v.nEw

/-- R105: write-strobe pulses, counted by `n_ew` and in the trace. -/
def Obligations.WritesPulseOncePerCycle : Prop :=
  (∀ (s : State) (r : OpenRegs) (b : Byte), s.life = .opened r → OpenInv r s →
    ∃ t es, exec (.wrc b) s = .next t ∧ t.trace = s.trace ++ es ∧
      t.nEw = s.nEw + cyclesPerByte r ∧ pulses r.cfg.ew.toNat Config.ewActive es = cyclesPerByte r ∧ t.nRw = s.nRw) ∧
  (∀ (s : State) (r : OpenRegs) (bytes : List Byte), s.life = .opened r → OpenInv r s →
    ∃ t es, exec (.wrb bytes) s = .next t ∧ t.trace = s.trace ++ es ∧
      t.nEw = s.nEw + cyclesPerByte r * bytes.length ∧
      pulses r.cfg.ew.toNat Config.ewActive es = cyclesPerByte r * bytes.length ∧ t.nRw = s.nRw) ∧
  (∀ (s : State) (i : Instr), s.life = .closed → ((∃ b, i = .wrc b) ∨ ∃ bytes, i = .wrb bytes) →
    ∃ t, exec i s = .next t ∧ t.nEw = s.nEw ∧ t.nRw = s.nRw)

/-- The growth of `tmin` by a write (R106, R180). -/
def Obligations.WritesSpendSetupClockHold : Prop :=
  ∀ (s : State) (r : OpenRegs), s.life = .opened r →
    (∀ b, ∃ t, exec (.wrc b) s = .next t ∧
      t.tmin = s.tmin + cyclesPerByte r * (r.cfg.tSu.toNat + r.cfg.tClk.toNat + r.cfg.tH.toNat)) ∧
    (∀ bytes, ∃ t, exec (.wrb bytes) s = .next t ∧
      t.tmin = s.tmin +
        bytes.length * (cyclesPerByte r * (r.cfg.tSu.toNat + r.cfg.tClk.toNat + r.cfg.tH.toNat)))

/-! ### Reads -/

/-- R112: RDB, with its two failures. Each byte answered is made of its eight samples, in both widths. -/
def Obligations.RdbReadsEveryByteInOrder : Prop :=
  (∀ (s : State) (count : Word32), s.life = .closed → exec (.rdb count) s = .next (turnedAway 0x03#8 s)) ∧
  (∀ (s : State) (r : OpenRegs) (count : Word32), s.life = .opened r → r.canRead = false →
    exec (.rdb count) s = .next (turnedAway 0x02#8 s)) ∧
  (∀ (s : State) (r : OpenRegs) (count : Word32), s.life = .opened r → r.canRead = true →
    ∃ t es data, exec (.rdb count) s = .next t ∧ t.trace = s.trace ++ es ∧
      es.map Event.microOp = readFrameOps r Config.rsDataLevel count.toNat ∧
      t.status = 0x00#8 ∧ t.responses = s.responses ++ 0x00#8 :: data ∧ data.length = count.toNat ∧
      (∀ k i, k < count.toNat → i < 8 →
        (data.getD k 0#8).getLsbD i = (samples es).getD (8 * k + bitPlace r.w4 i) false) ∧
      ReadFrame r s t ∧ t.dir = .out ∧ t.cnt = 0#32 ∧ t.rdata = data ∧ t.rxb = data.getLastD s.rxb)

/-- R113: RDR, with its two failures: the same read of one byte with RS at the command level. -/
def Obligations.RdrReadsTheStatusByte : Prop :=
  (∀ s : State, s.life = .closed → exec .rdr s = .next (turnedAway 0x03#8 s)) ∧
  (∀ (s : State) (r : OpenRegs), s.life = .opened r → r.canRead = false →
    exec .rdr s = .next (turnedAway 0x02#8 s)) ∧
  (∀ (s : State) (r : OpenRegs), s.life = .opened r → r.canRead = true →
    ∃ t es b, exec .rdr s = .next t ∧ t.trace = s.trace ++ es ∧
      es.map Event.microOp = readFrameOps r Config.rsCmdLevel 1 ∧
      t.status = 0x00#8 ∧ t.responses = s.responses ++ [0x00#8, b] ∧
      (∀ i, i < 8 → b.getLsbD i = (samples es).getD (bitPlace r.w4 i) false) ∧
      ReadFrame r s t ∧ t.dir = .out ∧ t.cnt = 0#32 ∧ t.rdata = [b] ∧ t.rxb = b)

/-- Every sample of a read is the device's answer on that line (R27, R78): with the oracle on the bus, the `j`-th
sample of the command is the `j`-th free value from `draws` on, for every value of that field (log entry 3). -/
def Obligations.ReadsReturnWhatTheDeviceDrives : Prop :=
  ∀ (s : State) (r : OpenRegs) (count : Word32), s.life = .opened r → OpenInv r s → r.canRead = true →
    s.dev = .oracle →
    (∃ t es, exec (.rdb count) s = .next t ∧ t.trace = s.trace ++ es ∧
      (samples es).length = 8 * count.toNat ∧ t.draws = s.draws + 8 * count.toNat ∧
      ∀ j, j < 8 * count.toNat →
        (samples es).getD j false =
          Config.ext (s.draws + j) ((dataPins r).getD (j % (dataPins r).length) 0)) ∧
    (∃ t es, exec .rdr s = .next t ∧ t.trace = s.trace ++ es ∧ (samples es).length = 8 ∧ t.draws = s.draws + 8 ∧
      ∀ j, j < 8 →
        (samples es).getD j false =
          Config.ext (s.draws + j) ((dataPins r).getD (j % (dataPins r).length) 0))

/-- R116: the state after a read. -/
def Obligations.ReadsRestoreTheBus : Prop :=
  ∀ (s : State) (r : OpenRegs), s.life = .opened r → OpenInv r s → r.canRead = true →
    (∀ count, ∃ t, exec (.rdb count) s = .next t ∧ (t.pad r.cfg.rs.toNat).latch = Config.rsDataLevel ∧
      (∀ p ∈ dataPins r, (t.pad p).mode = .out ∧ (t.pad p).latch = (s.pad p).latch) ∧
      (t.pad r.cfg.rw.toNat).latch = Config.rwIdle ∧ (t.pad r.cfg.ew.toNat).latch = Config.ewIdle ∧
      t.life = s.life) ∧
    (∃ t, exec .rdr s = .next t ∧ (t.pad r.cfg.rs.toNat).latch = Config.rsCmdLevel ∧
      (∀ p ∈ dataPins r, (t.pad p).mode = .out ∧ (t.pad p).latch = (s.pad p).latch) ∧
      (t.pad r.cfg.rw.toNat).latch = Config.rwIdle ∧ (t.pad r.cfg.ew.toNat).latch = Config.ewIdle ∧
      t.life = s.life)

/-- R114: RDB with a count of 0 performs the frame with no cycle in it. -/
def Obligations.EmptyRdbPerformsTheFrameOnly : Prop :=
  ∀ (s : State) (r : OpenRegs), s.life = .opened r → r.canRead = true →
    ∃ t, exec (.rdb 0#32) s = .next t ∧
      t.trace = s.trace ++ .write r.cfg.rs.toNat Config.rsDataLevel ::
        ((dataPins r).map (fun p => .mode p .inp) ++ (dataPins r).map (fun p => .mode p .out)) ∧
      t.tmin = s.tmin ∧ t.nRw = s.nRw ∧ t.draws = s.draws ∧ t.status = 0x00#8 ∧
      t.responses = s.responses ++ [0x00#8]

/-- R115: reads on a write-only bus. -/
def Obligations.ReadsOnAWriteOnlyBusTouchNothing : Prop :=
  ∀ (s : State) (r : OpenRegs), s.life = .opened r → r.canRead = false →
    (∀ count, exec (.rdb count) s = .next (turnedAway 0x02#8 s)) ∧ exec .rdr s = .next (turnedAway 0x02#8 s)

/-- The transfer commands while `CLOSED` (R146): `HandleInvalid`, and no pin touched. -/
def Obligations.TransfersWhileClosedAreHandleInvalid : Prop :=
  ∀ s : State, s.life = .closed →
    (∀ b, exec (.wrc b) s = .next (turnedAway 0x03#8 s)) ∧
    (∀ bytes, exec (.wrb bytes) s = .next (turnedAway 0x03#8 s)) ∧
    (∀ count, exec (.rdb count) s = .next (turnedAway 0x03#8 s)) ∧
    exec .rdr s = .next (turnedAway 0x03#8 s)

/-- R117: read-strobe pulses, counted by `n_rw` and in the trace. -/
def Obligations.ReadsPulseOncePerCycle : Prop :=
  (∀ (s : State) (r : OpenRegs) (count : Word32), s.life = .opened r → OpenInv r s → r.canRead = true →
    ∃ t es, exec (.rdb count) s = .next t ∧ t.trace = s.trace ++ es ∧
      t.nRw = s.nRw + cyclesPerByte r * count.toNat ∧
      pulses r.cfg.rw.toNat Config.rwActive es = cyclesPerByte r * count.toNat ∧ t.nEw = s.nEw) ∧
  (∀ (s : State) (r : OpenRegs), s.life = .opened r → OpenInv r s → r.canRead = true →
    ∃ t es, exec .rdr s = .next t ∧ t.trace = s.trace ++ es ∧
      t.nRw = s.nRw + cyclesPerByte r ∧
      pulses r.cfg.rw.toNat Config.rwActive es = cyclesPerByte r ∧ t.nEw = s.nEw) ∧
  (∀ (s : State) (i : Instr), (s.life = .closed ∨ ∃ r, s.life = .opened r ∧ r.canRead = false) →
    (i = .rdr ∨ ∃ count, i = .rdb count) → ∃ t, exec i s = .next t ∧ t.nRw = s.nRw ∧ t.nEw = s.nEw)

/-- The growth of `tmin` by a read (R118, R180). -/
def Obligations.ReadsSpendSetupTurnaroundProcessing : Prop :=
  ∀ (s : State) (r : OpenRegs), s.life = .opened r → r.canRead = true →
    (∀ count : Word32, ∃ t, exec (.rdb count) s = .next t ∧
      t.tmin = s.tmin +
        count.toNat * (cyclesPerByte r * (r.cfg.tSu.toNat + r.cfg.tRd.toNat + r.cfg.tProc.toNat))) ∧
    (∃ t, exec .rdr s = .next t ∧
      t.tmin = s.tmin + cyclesPerByte r * (r.cfg.tSu.toNat + r.cfg.tRd.toNat + r.cfg.tProc.toNat))

/-- The nibble phase that each transfer leaves. R23 says which nibble each value stands for; no rule's pseudocode writes
`h`, and that it keeps the low phase after a 4-bit byte and is not written otherwise is the model's choice (log entry
17). -/
def Obligations.TransfersLeaveTheNibblePhase : Prop :=
  ∀ (s : State) (r : OpenRegs), s.life = .opened r →
    (∀ b, ∃ t, exec (.wrc b) s = .next t ∧ t.h = (if r.w4 then true else s.h)) ∧
    (∀ bytes, ∃ t, exec (.wrb bytes) s = .next t ∧ t.h = (if r.w4 ∧ bytes ≠ [] then true else s.h)) ∧
    (r.canRead = true → ∀ count, ∃ t, exec (.rdb count) s = .next t ∧
      t.h = (if r.w4 ∧ count ≠ 0#32 then true else s.h)) ∧
    (r.canRead = true → ∃ t, exec .rdr s = .next t ∧ t.h = (if r.w4 then true else s.h))

/-! ### Whole-machine rules -/

/-- The invariant is kept by every step (R32, R25, R21). -/
def Obligations.EveryStepKeepsTheInvariant : Prop :=
  ∀ s t : State, Inv s → step s = .next t → Inv t

/-- R119: the round trip on the loop-back fixture, in either width. -/
def Obligations.LoopBackReturnsWhatWasWritten : Prop :=
  ∀ (s : State) (r : OpenRegs) (f : LoopBack) (bytes : List Byte), s.life = .opened r → OpenInv r s →
    r.canRead = true → s.dev = .loopBack f → f.wiring = r.cfg → f.w4 = r.w4 → f.fifo = [] → f.wn = none →
    f.rn = none → bytes.length < 2 ^ 32 →
    ∃ t u, exec (.wrb bytes) s = .next t ∧ exec (.rdb (BitVec.ofNat 32 bytes.length)) t = .next u ∧
      u.responses = t.responses ++ 0x00#8 :: bytes

/-- A command that the machine runs is its statements one at a time (R22, R45, R73; that the step carries a command in
progress to its end, and the statements beside the micro-operations, are the model's: log entry 8). `exec` of a command
that is accepted is the step of the state that has taken it, and from any state with a command in progress the step
leads to the same state after any number of statements, and ends the command when none is left. -/
def Obligations.RunIsItsMicroSteps : Prop :=
  (∀ (s : State) (c : BusConfig), s.fault = false → s.life = .closed → valid c = true →
    exec (.openBus c) s = step (accept (.openBus c) (openProg c) s)) ∧
  (∀ (s : State) (r : OpenRegs), s.fault = false → s.life = .opened r →
    (∀ b, exec (.wrc b) s = step (accept (.wrc b) (wrcProg r b) s)) ∧
    (∀ bytes, exec (.wrb bytes) s = step (accept (.wrb bytes) (wrbProg r bytes) s)) ∧
    (r.canRead = true → ∀ count, exec (.rdb count) s = step (accept (.rdb count) (rdbProg r count) s)) ∧
    (r.canRead = true → exec .rdr s = step (accept .rdr (rdrProg r) s)) ∧
    exec .closeBus s = step (accept .closeBus (closeProg r) s)) ∧
  (∀ (s : State) (cmd : Instr) (mpc : Nat) (rest : List Stmt), s.fault = false → s.seq = .run cmd mpc rest →
    (∀ n, step (microStep^[n] s) = step s) ∧
    ∃ n mpc', (microStep^[n] s).seq = .run cmd mpc' [] ∧
      step s = .next (commandDone cmd (microStep^[n] s)) ∧
      (microStep^[n] s).trace.length = s.trace.length + (mpc' - mpc) ∧ mpc ≤ mpc')

/-- The micro-operations of a transfer are fixed when it is accepted, whatever the samples are (R22, R186). -/
def Obligations.ProgramIsFixedAtAcceptance : Prop :=
  ∀ (s : State) (r : OpenRegs), s.life = .opened r →
    (∀ b, ∃ t es, exec (.wrc b) s = .next t ∧ t.trace = s.trace ++ es ∧
      es.map Event.microOp = microOps (wrcProg r b)) ∧
    (∀ bytes, ∃ t es, exec (.wrb bytes) s = .next t ∧ t.trace = s.trace ++ es ∧
      es.map Event.microOp = microOps (wrbProg r bytes)) ∧
    (r.canRead = true → ∀ count, ∃ t es, exec (.rdb count) s = .next t ∧ t.trace = s.trace ++ es ∧
      es.map Event.microOp = microOps (rdbProg r count)) ∧
    (r.canRead = true → ∃ t es, exec .rdr s = .next t ∧ t.trace = s.trace ++ es ∧
      es.map Event.microOp = microOps (rdrProg r)) ∧
    (∃ t es, exec .closeBus s = .next t ∧ t.trace = s.trace ++ es ∧ es.map Event.microOp = microOps (closeProg r))

/-- How many micro-operations each command takes (the last column of R180). -/
def Obligations.MicroOperationCounts : Prop :=
  (∀ c, (microOps (openProg c)).length =
    if width4 c then (if readable c then 21 else 18) else (if readable c then 33 else 30)) ∧
  (∀ r, (microOps (closeProg r)).length =
    if r.w4 then (if r.canRead then 7 else 6) else (if r.canRead then 11 else 10)) ∧
  (∀ r b, (microOps (wrcProg r b)).length = if r.w4 then 19 else 14) ∧
  (∀ r bytes, (microOps (wrbProg r bytes)).length = if r.w4 then 19 * bytes.length else 14 * bytes.length) ∧
  (∀ r, (microOps (rdrProg r)).length = if r.w4 then 27 else 30) ∧
  (∀ r count, (microOps (rdbProg r count)).length =
    if r.w4 then 9 + 18 * count.toNat else 17 + 13 * count.toNat)

/-- R95: between OPEN and CLOSE nothing writes `cfg`, `w4`, `can_read` or `owned`. -/
def Obligations.ConfigIsFrozenWhileOpen : Prop :=
  ∀ (s t : State) (r : OpenRegs), Idle s → s.life = .opened r → step s = .next t →
    (t.life = s.life ∧ t.owned = s.owned) ∨ ∃ rest, decode s.commands = .command .closeBus rest

/-- Every mode, write and sample of a transfer names an owned pin (R81). -/
def Obligations.TransfersUseOwnedPinsOnly : Prop :=
  ∀ (s t : State) (r : OpenRegs) (i : Instr), s.life = .opened r → OpenInv r s → i ≠ .closeBus →
    exec i s = .next t →
    ∃ es, t.trace = s.trace ++ es ∧
      ∀ e ∈ es, ∀ p, ((∃ m, e = .mode p m) ∨ (∃ v, e = .write p v) ∨ ∃ v, e = .sample p v) → p ∈ s.owned

/-- R153: a command that fails has driven and sampled no line, and has left every pad as it found it. -/
def Obligations.FailingCommandsTouchNoLine : Prop :=
  (∀ (i : Instr) (s t : State), exec i s = .next t → t.fault = false → t.status ≠ 0x00#8 →
    (∀ p, t.pad p = s.pad p) ∧
    ∃ es, t.trace = s.trace ++ es ∧
      ((t.status ≠ 0x01#8 ∨ ∃ c, i = .openBus c ∧ valid c = false) → es = []) ∧
      ∀ e ∈ es, (∃ p g, e = .claim p g) ∨ ∃ p, e = .release p) ∧
  (∀ (s : State) (op : Byte) (rest : List Byte), Idle s → decode s.commands = .badOpcode op rest →
    ∃ t, step s = .next t ∧ t.status = 0x04#8 ∧ t.trace = s.trace ∧ t.pads = s.pads)

/-- R67: one response packet a command: a status byte, then the data of a successful read, in the order read. -/
def Obligations.OneResponsePacketPerCommand : Prop :=
  (∀ (s t : State) (op : Byte) (rest : List Byte), Idle s → decode s.commands = .badOpcode op rest →
    step s = .next t → t.responses = s.responses ++ [t.status] ∧ t.status ≠ 0x00#8) ∧
  (∀ (s t : State) (i : Instr) (rest : List Byte), Idle s → decode s.commands = .command i rest → step s = .next t →
    t.fault = false →
    ∃ data, t.responses = s.responses ++ t.status :: data ∧ (data ≠ [] → data = t.rdata) ∧
      data.length =
        (if t.status = 0x00#8 then
          match i with
          | .rdb count => count.toNat
          | .rdr => 1
          | .openBus _ => 0
          | .wrc _ => 0
          | .wrb _ => 0
          | .closeBus => 0
        else 0))

/-- R151: the order of the tests. One error is reported: the status, and a response of that one byte. -/
def Obligations.ErrorsAreTestedInOrder : Prop :=
  ∀ s : State, Idle s →
    (∀ op rest, decode s.commands = .badOpcode op rest →
      ∃ t, step s = .next t ∧ t.status = 0x04#8 ∧ t.responses = s.responses ++ [0x04#8]) ∧
    (∀ i rest, decode s.commands = .command i rest → s.life = .closed → (∀ c, i ≠ .openBus c) → i ≠ .closeBus →
      ∃ t, step s = .next t ∧ t.status = 0x03#8 ∧ t.responses = s.responses ++ [0x03#8]) ∧
    (∀ c rest r, decode s.commands = .command (.openBus c) rest → s.life = .opened r →
      ∃ t, step s = .next t ∧ t.status = 0x03#8 ∧ t.responses = s.responses ++ [0x03#8]) ∧
    (∀ i rest r, decode s.commands = .command i rest → s.life = .opened r → r.canRead = false →
      (i = .rdr ∨ ∃ count, i = .rdb count) →
      ∃ t, step s = .next t ∧ t.status = 0x02#8 ∧ t.responses = s.responses ++ [0x02#8]) ∧
    (∀ c rest, decode s.commands = .command (.openBus c) rest → s.life = .closed →
      (valid c = false ∨ ∃ p ∈ configPins c, (s.pad p).claimed = true) →
      ∃ t, step s = .next t ∧ t.status = 0x01#8 ∧ t.responses = s.responses ++ [0x01#8])

/-! ### Micro-operations and the façade -/

/-- What a micro-operation changes (R73 to R79): its own field of its own pad, or `tmin` for a delay; the trace by the
one event that records it; `res` for a claim and a sample, `draws` for a sample; the fixture on a write. An input that
nothing drives answers the free value `Config.ext` at `draws`, which is the model's form of it (log entry 3). -/
def Obligations.MicroOperationsChangeTheirOwnField : Prop :=
  (∀ (s : State) (p q : Nat), p < 28 →
    ((perform (.claim p) s).pad q = if q = p then { s.pad q with claimed := true } else s.pad q) ∧
    ((perform (.claim p) s).res = true ↔ (s.pad p).claimed = false) ∧
    ((perform (.release p) s).pad q = if q = p then { s.pad q with claimed := false } else s.pad q) ∧
    (∀ m, (perform (.mode p m) s).pad q = if q = p then { s.pad q with mode := m } else s.pad q) ∧
    (∀ v, (perform (.write p v) s).pad q = if q = p then { s.pad q with latch := v } else s.pad q) ∧
    (perform (.sample p) s).pad q = s.pad q ∧
    (perform (.sample p) s).res =
      (if (s.pad p).mode = .out then (s.pad p).latch else (driven s.dev p).getD (Config.ext s.draws p)) ∧
    (∀ d, (perform (.delay d) s).pad q = s.pad q)) ∧
  (∀ (s : State) (o : MicroOp),
    (∃ e, (perform o s).trace = s.trace ++ [e] ∧ e.microOp = o ∧
      (∀ p, o = .claim p → e = .claim p (!(s.pad p).claimed)) ∧
      (∀ p, o = .sample p → e = .sample p (perform o s).res)) ∧
    MicroOpFrame o s (perform o s))

/-- R125: `set_cg_offset` stores and sends the address rounded down to a multiple of 8, and warns when that changed
it. -/
def Obligations.SetCgOffsetRoundsDown : Prop :=
  ∀ (addr : BitVec 16) (cs : ChipState),
    let a := (setCgOffset addr cs).chip.cgBase
    a.toNat % 8 = 0 ∧ a.toNat ≤ addr.toNat ∧ addr.toNat < a.toNat + 8 ∧
    ((setCgOffset addr cs).warning = true ↔ addr.toNat % 8 ≠ 0) ∧
    (setCgOffset addr cs).chip = { cs with cgBase := a } ∧
    ∃ lo hi : Byte, hi.toNat * 256 + lo.toNat = a.toNat ∧
      (setCgOffset addr cs).cmds = [.wrb [lo, hi], .wrc Config.opcSetCgOffset]

/-- A façade read of one byte (R128). It issues its opcode and then `RDB 1` and returns that byte; on a write-only bus it
fails with `UnsupportedOperation`, whether or not the opcode is sent, and no line is driven but by that opcode. That the
failing `RDB` is always issued there, so that `status` is `02`, is the model's choice, and so is that a call is answered
with the sticky fault set or a command in progress (log entry 9). -/
def Obligations.FacadeReadReturnsOneByte : Prop :=
  (∀ (s : State) (r : OpenRegs), s.life = .opened r → r.canRead = true →
    ∀ op ∈ [(readIncrement, Config.opcDataReadInc), (readDecrement, Config.opcDataReadDec),
      (readNonvariable, Config.opcDataReadNonvar)],
    ∃ t u b, exec (.wrc op.2) s = .next t ∧ exec (.rdb 1#32) t = .next u ∧
      u.responses = s.responses ++ [0x00#8, 0x00#8, b] ∧ op.1 s = .next { state := u, error := none, data := [b] }) ∧
  (∀ (s : State) (r : OpenRegs), s.life = .opened r → r.canRead = false →
    ∀ op ∈ [(readIncrement, Config.opcDataReadInc), (readDecrement, Config.opcDataReadDec),
      (readNonvariable, Config.opcDataReadNonvar)],
    ∃ u, op.1 s = .next { state := u, error := some .unsupportedOperation, data := [] } ∧ u.status = 0x02#8 ∧
      (u.trace = s.trace ∨ u.trace = s.trace ++ writeByteEvents r Config.rsCmdLevel op.2))

/-- R132: `bulk_read`. The auto-read opcode, one `RDB` of the whole length, the auto-reset opcode, and the bytes; on a
write-only bus `UnsupportedOperation`, whichever opcodes are sent. With the sticky fault set or a command in progress no
rule applies, and the answer is the model's choice (log entry 9). -/
def Obligations.FacadeBulkReadReturnsItsBytes : Prop :=
  (∀ (s : State) (r : OpenRegs) (len : Word32), s.life = .opened r → r.canRead = true →
    ∃ t u v data, exec (.wrc Config.opcAutoRead) s = .next t ∧ exec (.rdb len) t = .next u ∧
      exec (.wrc Config.opcAutoReset) u = .next v ∧ u.responses = t.responses ++ 0x00#8 :: data ∧
      data.length = len.toNat ∧ bulkRead len s = .next { state := v, error := none, data := data }) ∧
  (∀ (s : State) (r : OpenRegs) (len : Word32), s.life = .opened r → r.canRead = false →
    ∃ u, bulkRead len s = .next { state := u, error := some .unsupportedOperation, data := [] })

/-- An error of the Bus Engine comes up unchanged (R138). The first command that fails ends the call with its error kind
(that nothing is issued after it, and that a call is answered with the sticky fault set or a command in progress, are
the model's choices: log entry 9), `HandleInvalid` on a closed controller; a command
that succeeds is issued once and adds its data to what the rest returns. -/
def Obligations.FacadeErrorsComeUpUnchanged : Prop :=
  (∀ (s : State) (i : Instr) (is : List Instr), s.life = .closed → (∀ c, i ≠ .openBus c) → i ≠ .closeBus →
    issue false (i :: is) s =
      .next { state := turnedAway 0x03#8 s, error := some .handleInvalid, data := [] }) ∧
  (∀ (goOn : Bool) (s t : State) (i : Instr) (is : List Instr) (e : FacadeEnd), exec i s = .next t →
    t.status = 0x00#8 → issue goOn is t = .next e →
    issue goOn (i :: is) s = .next { e with data := responseData s t ++ e.data }) ∧
  (∀ (s t : State) (i : Instr) (is : List Instr) (k : ErrorKind), exec i s = .next t → t.status = statusCode k →
    issue false (i :: is) s = .next { state := t, error := some k, data := responseData s t })
end

