-- ==== Sys2Proof/Laws/Facade.lean ====
section
/-! SUPPORT. What issuing a list of commands to the Bus Engine returns to the façade's caller. -/

namespace Sys2Proof.Laws

open Sys2Proof.Machine

/-- Every error kind's status code reports it (R143). -/
@[simp] theorem errorOf_statusCode (k : ErrorKind) : errorOf (statusCode k) = some k := by cases k <;> rfl

/-- Success reports no error (R68). -/
@[simp] theorem errorOf_statusOk : errorOf statusOk = none := rfl

/-- The data of a response is what follows its status byte (R67). -/
theorem responseData_eq {s t : State} {code : Byte} {data : List Byte}
    (h : t.responses = s.responses ++ code :: data) : responseData s t = data := by
  simp [responseData, h, List.drop_append]

@[simp] theorem issue_nil (goOn : Bool) (s : State) :
    issue goOn [] s = .next { state := s, error := none, data := [] } := rfl

/-- Where issuing goes on after a command, its part of the call stands before that of the rest. -/
theorem issue_cons {goOn : Bool} {i : Instr} {is : List Instr} {s t : State} {e : FacadeEnd}
    (h : exec i s = .next t) (hgo : errorOf t.status = none ∨ goOn = true) (he : issue goOn is t = .next e) :
    issue goOn (i :: is) s = .next (e.after (errorOf t.status) (responseData s t)) := by
  rcases hgo with hgo | rfl
  · simp [issue, h, hgo, he]
  · simp [issue, h, he]

end Sys2Proof.Laws
end

