-- ==== Sys2Proof/Laws/State.lean ====
section
/-! SUPPORT. One lemma per field per update of the state, each true by `rfl` (written by a script, one line each), and
the pads after an update. -/

namespace Sys2Proof.Laws

open Sys2Proof.Machine

variable (s : State)

/-! ### `setPad` -/

@[simp] theorem setPad_life (p : Nat) (x : Pad) : (s.setPad p x).life = s.life := rfl
@[simp] theorem setPad_owned (p : Nat) (x : Pad) : (s.setPad p x).owned = s.owned := rfl
@[simp] theorem setPad_seq (p : Nat) (x : Pad) : (s.setPad p x).seq = s.seq := rfl
@[simp] theorem setPad_txb (p : Nat) (x : Pad) : (s.setPad p x).txb = s.txb := rfl
@[simp] theorem setPad_rxb (p : Nat) (x : Pad) : (s.setPad p x).rxb = s.rxb := rfl
@[simp] theorem setPad_cnt (p : Nat) (x : Pad) : (s.setPad p x).cnt = s.cnt := rfl
@[simp] theorem setPad_h (p : Nat) (x : Pad) : (s.setPad p x).h = s.h := rfl
@[simp] theorem setPad_rdata (p : Nat) (x : Pad) : (s.setPad p x).rdata = s.rdata := rfl
@[simp] theorem setPad_res (p : Nat) (x : Pad) : (s.setPad p x).res = s.res := rfl
@[simp] theorem setPad_status (p : Nat) (x : Pad) : (s.setPad p x).status = s.status := rfl
@[simp] theorem setPad_fault (p : Nat) (x : Pad) : (s.setPad p x).fault = s.fault := rfl
@[simp] theorem setPad_dir (p : Nat) (x : Pad) : (s.setPad p x).dir = s.dir := rfl
@[simp] theorem setPad_pads (p : Nat) (x : Pad) : (s.setPad p x).pads = s.pads.setIfInBounds p x := rfl
@[simp] theorem setPad_dev (p : Nat) (x : Pad) : (s.setPad p x).dev = s.dev := rfl
@[simp] theorem setPad_draws (p : Nat) (x : Pad) : (s.setPad p x).draws = s.draws := rfl
@[simp] theorem setPad_trace (p : Nat) (x : Pad) : (s.setPad p x).trace = s.trace := rfl
@[simp] theorem setPad_tmin (p : Nat) (x : Pad) : (s.setPad p x).tmin = s.tmin := rfl
@[simp] theorem setPad_nEw (p : Nat) (x : Pad) : (s.setPad p x).nEw = s.nEw := rfl
@[simp] theorem setPad_nRw (p : Nat) (x : Pad) : (s.setPad p x).nRw = s.nRw := rfl
@[simp] theorem setPad_commands (p : Nat) (x : Pad) : (s.setPad p x).commands = s.commands := rfl
@[simp] theorem setPad_responses (p : Nat) (x : Pad) : (s.setPad p x).responses = s.responses := rfl

/-! ### `record` -/

@[simp] theorem record_life (e : Event) : (s.record e).life = s.life := rfl
@[simp] theorem record_owned (e : Event) : (s.record e).owned = s.owned := rfl
@[simp] theorem record_seq (e : Event) : (s.record e).seq = s.seq.bump := rfl
@[simp] theorem record_txb (e : Event) : (s.record e).txb = s.txb := rfl
@[simp] theorem record_rxb (e : Event) : (s.record e).rxb = s.rxb := rfl
@[simp] theorem record_cnt (e : Event) : (s.record e).cnt = s.cnt := rfl
@[simp] theorem record_h (e : Event) : (s.record e).h = s.h := rfl
@[simp] theorem record_rdata (e : Event) : (s.record e).rdata = s.rdata := rfl
@[simp] theorem record_res (e : Event) : (s.record e).res = s.res := rfl
@[simp] theorem record_status (e : Event) : (s.record e).status = s.status := rfl
@[simp] theorem record_fault (e : Event) : (s.record e).fault = s.fault := rfl
@[simp] theorem record_dir (e : Event) : (s.record e).dir = s.dir := rfl
@[simp] theorem record_pads (e : Event) : (s.record e).pads = s.pads := rfl
@[simp] theorem record_dev (e : Event) : (s.record e).dev = s.dev := rfl
@[simp] theorem record_draws (e : Event) : (s.record e).draws = s.draws := rfl
@[simp] theorem record_trace (e : Event) : (s.record e).trace = s.trace ++ [e] := rfl
@[simp] theorem record_tmin (e : Event) : (s.record e).tmin = s.tmin := rfl
@[simp] theorem record_nEw (e : Event) : (s.record e).nEw = s.nEw := rfl
@[simp] theorem record_nRw (e : Event) : (s.record e).nRw = s.nRw := rfl
@[simp] theorem record_commands (e : Event) : (s.record e).commands = s.commands := rfl
@[simp] theorem record_responses (e : Event) : (s.record e).responses = s.responses := rfl

/-! ### `accept` -/

@[simp] theorem accept_life (i : Instr) (prog : List Stmt) : (accept i prog s).life = s.life := rfl
@[simp] theorem accept_owned (i : Instr) (prog : List Stmt) : (accept i prog s).owned = s.owned := rfl
@[simp] theorem accept_seq (i : Instr) (prog : List Stmt) : (accept i prog s).seq = .run i 0 prog := rfl
@[simp] theorem accept_txb (i : Instr) (prog : List Stmt) : (accept i prog s).txb = s.txb := rfl
@[simp] theorem accept_rxb (i : Instr) (prog : List Stmt) : (accept i prog s).rxb = s.rxb := rfl
@[simp] theorem accept_cnt (i : Instr) (prog : List Stmt) : (accept i prog s).cnt = s.cnt := rfl
@[simp] theorem accept_h (i : Instr) (prog : List Stmt) : (accept i prog s).h = s.h := rfl
@[simp] theorem accept_rdata (i : Instr) (prog : List Stmt) : (accept i prog s).rdata = s.rdata := rfl
@[simp] theorem accept_res (i : Instr) (prog : List Stmt) : (accept i prog s).res = s.res := rfl
@[simp] theorem accept_status (i : Instr) (prog : List Stmt) : (accept i prog s).status = s.status := rfl
@[simp] theorem accept_fault (i : Instr) (prog : List Stmt) : (accept i prog s).fault = s.fault := rfl
@[simp] theorem accept_dir (i : Instr) (prog : List Stmt) : (accept i prog s).dir = s.dir := rfl
@[simp] theorem accept_pads (i : Instr) (prog : List Stmt) : (accept i prog s).pads = s.pads := rfl
@[simp] theorem accept_dev (i : Instr) (prog : List Stmt) : (accept i prog s).dev = s.dev := rfl
@[simp] theorem accept_draws (i : Instr) (prog : List Stmt) : (accept i prog s).draws = s.draws := rfl
@[simp] theorem accept_trace (i : Instr) (prog : List Stmt) : (accept i prog s).trace = s.trace := rfl
@[simp] theorem accept_tmin (i : Instr) (prog : List Stmt) : (accept i prog s).tmin = s.tmin := rfl
@[simp] theorem accept_nEw (i : Instr) (prog : List Stmt) : (accept i prog s).nEw = s.nEw := rfl
@[simp] theorem accept_nRw (i : Instr) (prog : List Stmt) : (accept i prog s).nRw = s.nRw := rfl
@[simp] theorem accept_commands (i : Instr) (prog : List Stmt) : (accept i prog s).commands = s.commands := rfl
@[simp] theorem accept_responses (i : Instr) (prog : List Stmt) : (accept i prog s).responses = s.responses := rfl

/-! ### `respond` -/

@[simp] theorem respond_life (k : Byte) (bs : List Byte) : (respond k bs s).life = s.life := rfl
@[simp] theorem respond_owned (k : Byte) (bs : List Byte) : (respond k bs s).owned = s.owned := rfl
@[simp] theorem respond_seq (k : Byte) (bs : List Byte) : (respond k bs s).seq = .idle := rfl
@[simp] theorem respond_txb (k : Byte) (bs : List Byte) : (respond k bs s).txb = s.txb := rfl
@[simp] theorem respond_rxb (k : Byte) (bs : List Byte) : (respond k bs s).rxb = s.rxb := rfl
@[simp] theorem respond_cnt (k : Byte) (bs : List Byte) : (respond k bs s).cnt = s.cnt := rfl
@[simp] theorem respond_h (k : Byte) (bs : List Byte) : (respond k bs s).h = s.h := rfl
@[simp] theorem respond_rdata (k : Byte) (bs : List Byte) : (respond k bs s).rdata = s.rdata := rfl
@[simp] theorem respond_res (k : Byte) (bs : List Byte) : (respond k bs s).res = s.res := rfl
@[simp] theorem respond_status (k : Byte) (bs : List Byte) : (respond k bs s).status = k := rfl
@[simp] theorem respond_fault (k : Byte) (bs : List Byte) : (respond k bs s).fault = s.fault := rfl
@[simp] theorem respond_dir (k : Byte) (bs : List Byte) : (respond k bs s).dir = s.dir := rfl
@[simp] theorem respond_pads (k : Byte) (bs : List Byte) : (respond k bs s).pads = s.pads := rfl
@[simp] theorem respond_dev (k : Byte) (bs : List Byte) : (respond k bs s).dev = s.dev := rfl
@[simp] theorem respond_draws (k : Byte) (bs : List Byte) : (respond k bs s).draws = s.draws := rfl
@[simp] theorem respond_trace (k : Byte) (bs : List Byte) : (respond k bs s).trace = s.trace := rfl
@[simp] theorem respond_tmin (k : Byte) (bs : List Byte) : (respond k bs s).tmin = s.tmin := rfl
@[simp] theorem respond_nEw (k : Byte) (bs : List Byte) : (respond k bs s).nEw = s.nEw := rfl
@[simp] theorem respond_nRw (k : Byte) (bs : List Byte) : (respond k bs s).nRw = s.nRw := rfl
@[simp] theorem respond_commands (k : Byte) (bs : List Byte) : (respond k bs s).commands = s.commands := rfl
@[simp] theorem respond_responses (k : Byte) (bs : List Byte) : (respond k bs s).responses = s.responses ++ k :: bs := rfl

/-! ### `fail` -/

@[simp] theorem fail_life (k : ErrorKind) : (fail k s).life = s.life := rfl
@[simp] theorem fail_owned (k : ErrorKind) : (fail k s).owned = s.owned := rfl
@[simp] theorem fail_seq (k : ErrorKind) : (fail k s).seq = .idle := rfl
@[simp] theorem fail_txb (k : ErrorKind) : (fail k s).txb = s.txb := rfl
@[simp] theorem fail_rxb (k : ErrorKind) : (fail k s).rxb = s.rxb := rfl
@[simp] theorem fail_cnt (k : ErrorKind) : (fail k s).cnt = s.cnt := rfl
@[simp] theorem fail_h (k : ErrorKind) : (fail k s).h = s.h := rfl
@[simp] theorem fail_rdata (k : ErrorKind) : (fail k s).rdata = s.rdata := rfl
@[simp] theorem fail_res (k : ErrorKind) : (fail k s).res = s.res := rfl
@[simp] theorem fail_status (k : ErrorKind) : (fail k s).status = statusCode k := rfl
@[simp] theorem fail_fault (k : ErrorKind) : (fail k s).fault = s.fault := rfl
@[simp] theorem fail_dir (k : ErrorKind) : (fail k s).dir = s.dir := rfl
@[simp] theorem fail_pads (k : ErrorKind) : (fail k s).pads = s.pads := rfl
@[simp] theorem fail_dev (k : ErrorKind) : (fail k s).dev = s.dev := rfl
@[simp] theorem fail_draws (k : ErrorKind) : (fail k s).draws = s.draws := rfl
@[simp] theorem fail_trace (k : ErrorKind) : (fail k s).trace = s.trace := rfl
@[simp] theorem fail_tmin (k : ErrorKind) : (fail k s).tmin = s.tmin := rfl
@[simp] theorem fail_nEw (k : ErrorKind) : (fail k s).nEw = s.nEw := rfl
@[simp] theorem fail_nRw (k : ErrorKind) : (fail k s).nRw = s.nRw := rfl
@[simp] theorem fail_commands (k : ErrorKind) : (fail k s).commands = s.commands := rfl
@[simp] theorem fail_responses (k : ErrorKind) : (fail k s).responses = s.responses ++ [statusCode k] := rfl

/-! ### `succeed` -/

@[simp] theorem succeed_life (bs : List Byte) : (succeed bs s).life = s.life := rfl
@[simp] theorem succeed_owned (bs : List Byte) : (succeed bs s).owned = s.owned := rfl
@[simp] theorem succeed_seq (bs : List Byte) : (succeed bs s).seq = .idle := rfl
@[simp] theorem succeed_txb (bs : List Byte) : (succeed bs s).txb = s.txb := rfl
@[simp] theorem succeed_rxb (bs : List Byte) : (succeed bs s).rxb = s.rxb := rfl
@[simp] theorem succeed_cnt (bs : List Byte) : (succeed bs s).cnt = s.cnt := rfl
@[simp] theorem succeed_h (bs : List Byte) : (succeed bs s).h = s.h := rfl
@[simp] theorem succeed_rdata (bs : List Byte) : (succeed bs s).rdata = s.rdata := rfl
@[simp] theorem succeed_res (bs : List Byte) : (succeed bs s).res = s.res := rfl
@[simp] theorem succeed_status (bs : List Byte) : (succeed bs s).status = statusOk := rfl
@[simp] theorem succeed_fault (bs : List Byte) : (succeed bs s).fault = s.fault := rfl
@[simp] theorem succeed_dir (bs : List Byte) : (succeed bs s).dir = s.dir := rfl
@[simp] theorem succeed_pads (bs : List Byte) : (succeed bs s).pads = s.pads := rfl
@[simp] theorem succeed_dev (bs : List Byte) : (succeed bs s).dev = s.dev := rfl
@[simp] theorem succeed_draws (bs : List Byte) : (succeed bs s).draws = s.draws := rfl
@[simp] theorem succeed_trace (bs : List Byte) : (succeed bs s).trace = s.trace := rfl
@[simp] theorem succeed_tmin (bs : List Byte) : (succeed bs s).tmin = s.tmin := rfl
@[simp] theorem succeed_nEw (bs : List Byte) : (succeed bs s).nEw = s.nEw := rfl
@[simp] theorem succeed_nRw (bs : List Byte) : (succeed bs s).nRw = s.nRw := rfl
@[simp] theorem succeed_commands (bs : List Byte) : (succeed bs s).commands = s.commands := rfl
@[simp] theorem succeed_responses (bs : List Byte) : (succeed bs s).responses = s.responses ++ statusOk :: bs := rfl

/-! ### `consume` -/

@[simp] theorem consume_life (bs : List Byte) : (s.consume bs).life = s.life := rfl
@[simp] theorem consume_owned (bs : List Byte) : (s.consume bs).owned = s.owned := rfl
@[simp] theorem consume_seq (bs : List Byte) : (s.consume bs).seq = s.seq := rfl
@[simp] theorem consume_txb (bs : List Byte) : (s.consume bs).txb = s.txb := rfl
@[simp] theorem consume_rxb (bs : List Byte) : (s.consume bs).rxb = s.rxb := rfl
@[simp] theorem consume_cnt (bs : List Byte) : (s.consume bs).cnt = s.cnt := rfl
@[simp] theorem consume_h (bs : List Byte) : (s.consume bs).h = s.h := rfl
@[simp] theorem consume_rdata (bs : List Byte) : (s.consume bs).rdata = s.rdata := rfl
@[simp] theorem consume_res (bs : List Byte) : (s.consume bs).res = s.res := rfl
@[simp] theorem consume_status (bs : List Byte) : (s.consume bs).status = s.status := rfl
@[simp] theorem consume_fault (bs : List Byte) : (s.consume bs).fault = s.fault := rfl
@[simp] theorem consume_dir (bs : List Byte) : (s.consume bs).dir = s.dir := rfl
@[simp] theorem consume_pads (bs : List Byte) : (s.consume bs).pads = s.pads := rfl
@[simp] theorem consume_dev (bs : List Byte) : (s.consume bs).dev = s.dev := rfl
@[simp] theorem consume_draws (bs : List Byte) : (s.consume bs).draws = s.draws := rfl
@[simp] theorem consume_trace (bs : List Byte) : (s.consume bs).trace = s.trace := rfl
@[simp] theorem consume_tmin (bs : List Byte) : (s.consume bs).tmin = s.tmin := rfl
@[simp] theorem consume_nEw (bs : List Byte) : (s.consume bs).nEw = s.nEw := rfl
@[simp] theorem consume_nRw (bs : List Byte) : (s.consume bs).nRw = s.nRw := rfl
@[simp] theorem consume_commands (bs : List Byte) : (s.consume bs).commands = bs := rfl
@[simp] theorem consume_responses (bs : List Byte) : (s.consume bs).responses = s.responses := rfl

/-! ### `sendPacket` -/

@[simp] theorem sendPacket_life (bs : List Byte) : (s.sendPacket bs).life = s.life := rfl
@[simp] theorem sendPacket_owned (bs : List Byte) : (s.sendPacket bs).owned = s.owned := rfl
@[simp] theorem sendPacket_seq (bs : List Byte) : (s.sendPacket bs).seq = .idle := rfl
@[simp] theorem sendPacket_txb (bs : List Byte) : (s.sendPacket bs).txb = s.txb := rfl
@[simp] theorem sendPacket_rxb (bs : List Byte) : (s.sendPacket bs).rxb = s.rxb := rfl
@[simp] theorem sendPacket_cnt (bs : List Byte) : (s.sendPacket bs).cnt = s.cnt := rfl
@[simp] theorem sendPacket_h (bs : List Byte) : (s.sendPacket bs).h = s.h := rfl
@[simp] theorem sendPacket_rdata (bs : List Byte) : (s.sendPacket bs).rdata = s.rdata := rfl
@[simp] theorem sendPacket_res (bs : List Byte) : (s.sendPacket bs).res = s.res := rfl
@[simp] theorem sendPacket_status (bs : List Byte) : (s.sendPacket bs).status = s.status := rfl
@[simp] theorem sendPacket_fault (bs : List Byte) : (s.sendPacket bs).fault = false := rfl
@[simp] theorem sendPacket_dir (bs : List Byte) : (s.sendPacket bs).dir = s.dir := rfl
@[simp] theorem sendPacket_pads (bs : List Byte) : (s.sendPacket bs).pads = s.pads := rfl
@[simp] theorem sendPacket_dev (bs : List Byte) : (s.sendPacket bs).dev = s.dev := rfl
@[simp] theorem sendPacket_draws (bs : List Byte) : (s.sendPacket bs).draws = s.draws := rfl
@[simp] theorem sendPacket_trace (bs : List Byte) : (s.sendPacket bs).trace = s.trace := rfl
@[simp] theorem sendPacket_tmin (bs : List Byte) : (s.sendPacket bs).tmin = s.tmin := rfl
@[simp] theorem sendPacket_nEw (bs : List Byte) : (s.sendPacket bs).nEw = s.nEw := rfl
@[simp] theorem sendPacket_nRw (bs : List Byte) : (s.sendPacket bs).nRw = s.nRw := rfl
@[simp] theorem sendPacket_commands (bs : List Byte) : (s.sendPacket bs).commands = bs ++ s.commands := rfl
@[simp] theorem sendPacket_responses (bs : List Byte) : (s.sendPacket bs).responses = s.responses := rfl

/-! ### `doClaim` -/

@[simp] theorem doClaim_life (p : Nat) : (doClaim p s).life = s.life := rfl
@[simp] theorem doClaim_owned (p : Nat) : (doClaim p s).owned = s.owned := rfl
@[simp] theorem doClaim_seq (p : Nat) : (doClaim p s).seq = s.seq.bump := rfl
@[simp] theorem doClaim_txb (p : Nat) : (doClaim p s).txb = s.txb := rfl
@[simp] theorem doClaim_rxb (p : Nat) : (doClaim p s).rxb = s.rxb := rfl
@[simp] theorem doClaim_cnt (p : Nat) : (doClaim p s).cnt = s.cnt := rfl
@[simp] theorem doClaim_h (p : Nat) : (doClaim p s).h = s.h := rfl
@[simp] theorem doClaim_rdata (p : Nat) : (doClaim p s).rdata = s.rdata := rfl
@[simp] theorem doClaim_res (p : Nat) : (doClaim p s).res = !(s.pad p).claimed := rfl
@[simp] theorem doClaim_status (p : Nat) : (doClaim p s).status = s.status := rfl
@[simp] theorem doClaim_fault (p : Nat) : (doClaim p s).fault = s.fault := rfl
@[simp] theorem doClaim_dir (p : Nat) : (doClaim p s).dir = s.dir := rfl
@[simp] theorem doClaim_pads (p : Nat) : (doClaim p s).pads = s.pads.setIfInBounds p { s.pad p with claimed := true } := rfl
@[simp] theorem doClaim_dev (p : Nat) : (doClaim p s).dev = s.dev := rfl
@[simp] theorem doClaim_draws (p : Nat) : (doClaim p s).draws = s.draws := rfl
@[simp] theorem doClaim_trace (p : Nat) : (doClaim p s).trace = s.trace ++ [.claim p (!(s.pad p).claimed)] := rfl
@[simp] theorem doClaim_tmin (p : Nat) : (doClaim p s).tmin = s.tmin := rfl
@[simp] theorem doClaim_nEw (p : Nat) : (doClaim p s).nEw = s.nEw := rfl
@[simp] theorem doClaim_nRw (p : Nat) : (doClaim p s).nRw = s.nRw := rfl
@[simp] theorem doClaim_commands (p : Nat) : (doClaim p s).commands = s.commands := rfl
@[simp] theorem doClaim_responses (p : Nat) : (doClaim p s).responses = s.responses := rfl

/-! ### `doRelease` -/

@[simp] theorem doRelease_life (p : Nat) : (doRelease p s).life = s.life := rfl
@[simp] theorem doRelease_owned (p : Nat) : (doRelease p s).owned = s.owned := rfl
@[simp] theorem doRelease_seq (p : Nat) : (doRelease p s).seq = s.seq.bump := rfl
@[simp] theorem doRelease_txb (p : Nat) : (doRelease p s).txb = s.txb := rfl
@[simp] theorem doRelease_rxb (p : Nat) : (doRelease p s).rxb = s.rxb := rfl
@[simp] theorem doRelease_cnt (p : Nat) : (doRelease p s).cnt = s.cnt := rfl
@[simp] theorem doRelease_h (p : Nat) : (doRelease p s).h = s.h := rfl
@[simp] theorem doRelease_rdata (p : Nat) : (doRelease p s).rdata = s.rdata := rfl
@[simp] theorem doRelease_res (p : Nat) : (doRelease p s).res = s.res := rfl
@[simp] theorem doRelease_status (p : Nat) : (doRelease p s).status = s.status := rfl
@[simp] theorem doRelease_fault (p : Nat) : (doRelease p s).fault = s.fault := rfl
@[simp] theorem doRelease_dir (p : Nat) : (doRelease p s).dir = s.dir := rfl
@[simp] theorem doRelease_pads (p : Nat) : (doRelease p s).pads = s.pads.setIfInBounds p { s.pad p with claimed := false } := rfl
@[simp] theorem doRelease_dev (p : Nat) : (doRelease p s).dev = s.dev := rfl
@[simp] theorem doRelease_draws (p : Nat) : (doRelease p s).draws = s.draws := rfl
@[simp] theorem doRelease_trace (p : Nat) : (doRelease p s).trace = s.trace ++ [.release p] := rfl
@[simp] theorem doRelease_tmin (p : Nat) : (doRelease p s).tmin = s.tmin := rfl
@[simp] theorem doRelease_nEw (p : Nat) : (doRelease p s).nEw = s.nEw := rfl
@[simp] theorem doRelease_nRw (p : Nat) : (doRelease p s).nRw = s.nRw := rfl
@[simp] theorem doRelease_commands (p : Nat) : (doRelease p s).commands = s.commands := rfl
@[simp] theorem doRelease_responses (p : Nat) : (doRelease p s).responses = s.responses := rfl

/-! ### `doMode` -/

@[simp] theorem doMode_life (p : Nat) (m : PadMode) : (doMode p m s).life = s.life := rfl
@[simp] theorem doMode_owned (p : Nat) (m : PadMode) : (doMode p m s).owned = s.owned := rfl
@[simp] theorem doMode_seq (p : Nat) (m : PadMode) : (doMode p m s).seq = s.seq.bump := rfl
@[simp] theorem doMode_txb (p : Nat) (m : PadMode) : (doMode p m s).txb = s.txb := rfl
@[simp] theorem doMode_rxb (p : Nat) (m : PadMode) : (doMode p m s).rxb = s.rxb := rfl
@[simp] theorem doMode_cnt (p : Nat) (m : PadMode) : (doMode p m s).cnt = s.cnt := rfl
@[simp] theorem doMode_h (p : Nat) (m : PadMode) : (doMode p m s).h = s.h := rfl
@[simp] theorem doMode_rdata (p : Nat) (m : PadMode) : (doMode p m s).rdata = s.rdata := rfl
@[simp] theorem doMode_res (p : Nat) (m : PadMode) : (doMode p m s).res = s.res := rfl
@[simp] theorem doMode_status (p : Nat) (m : PadMode) : (doMode p m s).status = s.status := rfl
@[simp] theorem doMode_fault (p : Nat) (m : PadMode) : (doMode p m s).fault = s.fault := rfl
@[simp] theorem doMode_dir (p : Nat) (m : PadMode) : (doMode p m s).dir = s.dir := rfl
@[simp] theorem doMode_pads (p : Nat) (m : PadMode) : (doMode p m s).pads = s.pads.setIfInBounds p { s.pad p with mode := m } := rfl
@[simp] theorem doMode_dev (p : Nat) (m : PadMode) : (doMode p m s).dev = s.dev := rfl
@[simp] theorem doMode_draws (p : Nat) (m : PadMode) : (doMode p m s).draws = s.draws := rfl
@[simp] theorem doMode_trace (p : Nat) (m : PadMode) : (doMode p m s).trace = s.trace ++ [.mode p m] := rfl
@[simp] theorem doMode_tmin (p : Nat) (m : PadMode) : (doMode p m s).tmin = s.tmin := rfl
@[simp] theorem doMode_nEw (p : Nat) (m : PadMode) : (doMode p m s).nEw = s.nEw := rfl
@[simp] theorem doMode_nRw (p : Nat) (m : PadMode) : (doMode p m s).nRw = s.nRw := rfl
@[simp] theorem doMode_commands (p : Nat) (m : PadMode) : (doMode p m s).commands = s.commands := rfl
@[simp] theorem doMode_responses (p : Nat) (m : PadMode) : (doMode p m s).responses = s.responses := rfl

/-! ### `doWrite` -/

@[simp] theorem doWrite_life (p : Nat) (v : Level) : (doWrite p v s).life = s.life := rfl
@[simp] theorem doWrite_owned (p : Nat) (v : Level) : (doWrite p v s).owned = s.owned := rfl
@[simp] theorem doWrite_seq (p : Nat) (v : Level) : (doWrite p v s).seq = s.seq.bump := rfl
@[simp] theorem doWrite_txb (p : Nat) (v : Level) : (doWrite p v s).txb = s.txb := rfl
@[simp] theorem doWrite_rxb (p : Nat) (v : Level) : (doWrite p v s).rxb = s.rxb := rfl
@[simp] theorem doWrite_cnt (p : Nat) (v : Level) : (doWrite p v s).cnt = s.cnt := rfl
@[simp] theorem doWrite_h (p : Nat) (v : Level) : (doWrite p v s).h = s.h := rfl
@[simp] theorem doWrite_rdata (p : Nat) (v : Level) : (doWrite p v s).rdata = s.rdata := rfl
@[simp] theorem doWrite_res (p : Nat) (v : Level) : (doWrite p v s).res = s.res := rfl
@[simp] theorem doWrite_status (p : Nat) (v : Level) : (doWrite p v s).status = s.status := rfl
@[simp] theorem doWrite_fault (p : Nat) (v : Level) : (doWrite p v s).fault = s.fault := rfl
@[simp] theorem doWrite_dir (p : Nat) (v : Level) : (doWrite p v s).dir = s.dir := rfl
@[simp] theorem doWrite_pads (p : Nat) (v : Level) : (doWrite p v s).pads = s.pads.setIfInBounds p { s.pad p with latch := v } := rfl
@[simp] theorem doWrite_dev (p : Nat) (v : Level) : (doWrite p v s).dev = deviceAfterWrite s.dev (s.pad p).latch (s.setPad p { s.pad p with latch := v }).level p v := rfl
@[simp] theorem doWrite_draws (p : Nat) (v : Level) : (doWrite p v s).draws = s.draws := rfl
@[simp] theorem doWrite_trace (p : Nat) (v : Level) : (doWrite p v s).trace = s.trace ++ [.write p v] := rfl
@[simp] theorem doWrite_tmin (p : Nat) (v : Level) : (doWrite p v s).tmin = s.tmin := rfl
@[simp] theorem doWrite_nEw (p : Nat) (v : Level) : (doWrite p v s).nEw = s.nEw := rfl
@[simp] theorem doWrite_nRw (p : Nat) (v : Level) : (doWrite p v s).nRw = s.nRw := rfl
@[simp] theorem doWrite_commands (p : Nat) (v : Level) : (doWrite p v s).commands = s.commands := rfl
@[simp] theorem doWrite_responses (p : Nat) (v : Level) : (doWrite p v s).responses = s.responses := rfl

/-! ### `doSample` -/

@[simp] theorem doSample_life (p : Nat) : (doSample p s).life = s.life := rfl
@[simp] theorem doSample_owned (p : Nat) : (doSample p s).owned = s.owned := rfl
@[simp] theorem doSample_seq (p : Nat) : (doSample p s).seq = s.seq.bump := rfl
@[simp] theorem doSample_txb (p : Nat) : (doSample p s).txb = s.txb := rfl
@[simp] theorem doSample_rxb (p : Nat) : (doSample p s).rxb = s.rxb := rfl
@[simp] theorem doSample_cnt (p : Nat) : (doSample p s).cnt = s.cnt := rfl
@[simp] theorem doSample_h (p : Nat) : (doSample p s).h = s.h := rfl
@[simp] theorem doSample_rdata (p : Nat) : (doSample p s).rdata = s.rdata := rfl
@[simp] theorem doSample_res (p : Nat) : (doSample p s).res = s.level p := rfl
@[simp] theorem doSample_status (p : Nat) : (doSample p s).status = s.status := rfl
@[simp] theorem doSample_fault (p : Nat) : (doSample p s).fault = s.fault := rfl
@[simp] theorem doSample_dir (p : Nat) : (doSample p s).dir = s.dir := rfl
@[simp] theorem doSample_pads (p : Nat) : (doSample p s).pads = s.pads := rfl
@[simp] theorem doSample_dev (p : Nat) : (doSample p s).dev = s.dev := rfl
@[simp] theorem doSample_draws (p : Nat) : (doSample p s).draws = s.draws + 1 := rfl
@[simp] theorem doSample_trace (p : Nat) : (doSample p s).trace = s.trace ++ [.sample p (s.level p)] := rfl
@[simp] theorem doSample_tmin (p : Nat) : (doSample p s).tmin = s.tmin := rfl
@[simp] theorem doSample_nEw (p : Nat) : (doSample p s).nEw = s.nEw := rfl
@[simp] theorem doSample_nRw (p : Nat) : (doSample p s).nRw = s.nRw := rfl
@[simp] theorem doSample_commands (p : Nat) : (doSample p s).commands = s.commands := rfl
@[simp] theorem doSample_responses (p : Nat) : (doSample p s).responses = s.responses := rfl

/-! ### `doDelay` -/

@[simp] theorem doDelay_life (d : Nat) : (doDelay d s).life = s.life := rfl
@[simp] theorem doDelay_owned (d : Nat) : (doDelay d s).owned = s.owned := rfl
@[simp] theorem doDelay_seq (d : Nat) : (doDelay d s).seq = s.seq.bump := rfl
@[simp] theorem doDelay_txb (d : Nat) : (doDelay d s).txb = s.txb := rfl
@[simp] theorem doDelay_rxb (d : Nat) : (doDelay d s).rxb = s.rxb := rfl
@[simp] theorem doDelay_cnt (d : Nat) : (doDelay d s).cnt = s.cnt := rfl
@[simp] theorem doDelay_h (d : Nat) : (doDelay d s).h = s.h := rfl
@[simp] theorem doDelay_rdata (d : Nat) : (doDelay d s).rdata = s.rdata := rfl
@[simp] theorem doDelay_res (d : Nat) : (doDelay d s).res = s.res := rfl
@[simp] theorem doDelay_status (d : Nat) : (doDelay d s).status = s.status := rfl
@[simp] theorem doDelay_fault (d : Nat) : (doDelay d s).fault = s.fault := rfl
@[simp] theorem doDelay_dir (d : Nat) : (doDelay d s).dir = s.dir := rfl
@[simp] theorem doDelay_pads (d : Nat) : (doDelay d s).pads = s.pads := rfl
@[simp] theorem doDelay_dev (d : Nat) : (doDelay d s).dev = s.dev := rfl
@[simp] theorem doDelay_draws (d : Nat) : (doDelay d s).draws = s.draws := rfl
@[simp] theorem doDelay_trace (d : Nat) : (doDelay d s).trace = s.trace ++ [.delay d] := rfl
@[simp] theorem doDelay_tmin (d : Nat) : (doDelay d s).tmin = s.tmin + d := rfl
@[simp] theorem doDelay_nEw (d : Nat) : (doDelay d s).nEw = s.nEw := rfl
@[simp] theorem doDelay_nRw (d : Nat) : (doDelay d s).nRw = s.nRw := rfl
@[simp] theorem doDelay_commands (d : Nat) : (doDelay d s).commands = s.commands := rfl
@[simp] theorem doDelay_responses (d : Nat) : (doDelay d s).responses = s.responses := rfl

/-! ### The pads after an update -/

/-- A pad read after a pad is replaced. -/
theorem pad_setPad (p q : Nat) (x : Pad) :
    (s.setPad p x).pad q = if q = p ∧ p < 28 then x else s.pad q := by
  unfold State.pad State.setPad
  rw [Vector.getElem?_setIfInBounds]
  by_cases h : p = q
  · subst h
    by_cases hp : p < 28 <;> simp [hp]
  · simp [h, Ne.symm h]

@[simp] theorem pad_record (e : Event) (q : Nat) : (s.record e).pad q = s.pad q := rfl

/-- `pad` looks at `pads` only. -/
theorem pad_congr {s t : State} (h : t.pads = s.pads) (q : Nat) : t.pad q = s.pad q := by
  unfold State.pad
  rw [h]

/-- Replacing a pad by what it holds changes no pad. -/
theorem setPad_pad (p : Nat) : (s.setPad p (s.pad p)).pads = s.pads := by
  ext i hi
  simp only [setPad_pads, State.pad]
  rw [Vector.getElem_setIfInBounds]
  split
  · subst_vars
    simp [hi]
  · rfl

@[simp] theorem pad_setLife (l : Life) (q : Nat) : ({ s with life := l } : State).pad q = s.pad q := rfl

@[simp] theorem pad_accept (i : Instr) (prog : List Stmt) (q : Nat) : (accept i prog s).pad q = s.pad q := rfl

@[simp] theorem pad_respond (k : Byte) (bs : List Byte) (q : Nat) : (respond k bs s).pad q = s.pad q := rfl

@[simp] theorem pad_fail (k : ErrorKind) (q : Nat) : (fail k s).pad q = s.pad q := rfl

@[simp] theorem pad_succeed (bs : List Byte) (q : Nat) : (succeed bs s).pad q = s.pad q := rfl

@[simp] theorem pad_consume (bs : List Byte) (q : Nat) : (s.consume bs).pad q = s.pad q := rfl

/-- A pad after `Claim` (R74). -/
theorem pad_doClaim (p q : Nat) :
    (doClaim p s).pad q = if q = p ∧ p < 28 then { s.pad p with claimed := true } else s.pad q :=
  pad_setPad s p q _

/-- A pad after `Release` (R75). -/
theorem pad_doRelease (p q : Nat) :
    (doRelease p s).pad q = if q = p ∧ p < 28 then { s.pad p with claimed := false } else s.pad q :=
  pad_setPad s p q _

/-- A pad after `Mode` (R76). -/
theorem pad_doMode (p q : Nat) (m : PadMode) :
    (doMode p m s).pad q = if q = p ∧ p < 28 then { s.pad p with mode := m } else s.pad q :=
  pad_setPad s p q _

/-- A pad after `Write` (R77). -/
theorem pad_doWrite (p q : Nat) (v : Level) :
    (doWrite p v s).pad q = if q = p ∧ p < 28 then { s.pad p with latch := v } else s.pad q :=
  pad_setPad s p q _

@[simp] theorem pad_doSample (p q : Nat) : (doSample p s).pad q = s.pad q := rfl

@[simp] theorem pad_doDelay (d q : Nat) : (doDelay d s).pad q = s.pad q := rfl

end Sys2Proof.Laws
end

