-- ==== Sys2Proof/Laws/Ops.lean ====
section
/-! SUPPORT. What each shared operation can do, said once: statements, programs, byte order, bits. -/

namespace Sys2Proof.Laws

open Sys2Proof.Machine

/-! ### Programs -/

/-- A program that no run-time result ends early (R186): it holds no `checkClaim`. -/
def NoCheck (prog : List Stmt) : Prop := ∀ undo, Stmt.checkClaim undo ∉ prog

theorem abortsAt_eq_none {m : Stmt} (h : ∀ undo, m ≠ .checkClaim undo) (s : State) : abortsAt m s = none := by
  cases m <;> first | rfl | exact absurd rfl (h _)

@[simp] theorem runStmts_nil (s : State) : runStmts [] s = s := rfl

/-- A statement that is no check is performed and the rest follows. -/
theorem runStmts_cons {m : Stmt} (h : ∀ undo, m ≠ .checkClaim undo) (ms : List Stmt) (s : State) :
    runStmts (m :: ms) s = runStmts ms (performStmt m s) := by
  simp [runStmts, abortsAt_eq_none h]

@[simp] theorem runStmts_op (o : MicroOp) (ms : List Stmt) (s : State) :
    runStmts (.op o :: ms) s = runStmts ms (perform o s) := rfl

/-- A check ends the program with the releases when the last claim was refused, and else does nothing (R86). -/
theorem runStmts_checkClaim (undo : List Nat) (ms : List Stmt) (s : State) :
    runStmts (.checkClaim undo :: ms) s = if s.res then runStmts ms s else releaseAll undo s := by
  cases h : s.res <;> simp [runStmts, abortsAt, h, performStmt]

/-- A program without checks is a fold of its statements. -/
theorem runStmts_eq_foldl {prog : List Stmt} (h : NoCheck prog) (s : State) :
    runStmts prog s = prog.foldl (fun s m => performStmt m s) s := by
  induction prog generalizing s with
  | nil => rfl
  | cons m ms ih =>
    rw [runStmts_cons fun undo e => h undo (e ▸ List.mem_cons_self)]
    exact ih (fun undo hm => h undo (List.mem_cons_of_mem _ hm)) _

/-- A program without checks, followed by any program. -/
theorem runStmts_append {a : List Stmt} (h : NoCheck a) (b : List Stmt) (s : State) :
    runStmts (a ++ b) s = runStmts b (runStmts a s) := by
  induction a generalizing s with
  | nil => rfl
  | cons m ms ih =>
    have hm : ∀ undo, m ≠ .checkClaim undo := fun undo e => h undo (e ▸ List.mem_cons_self)
    rw [List.cons_append, runStmts_cons hm, runStmts_cons hm]
    exact ih (fun undo hm => h undo (List.mem_cons_of_mem _ hm)) _

theorem NoCheck.append {a b : List Stmt} (ha : NoCheck a) (hb : NoCheck b) : NoCheck (a ++ b) := by
  intro undo h
  rcases List.mem_append.mp h with h | h
  · exact ha undo h
  · exact hb undo h

/-! ### What no statement touches -/

/-- What every program leaves alone: the lifecycle, the status, the sticky fault and the streams (R22, R95). -/
structure Untouched (s t : State) : Prop where
  life : t.life = s.life
  owned : t.owned = s.owned
  status : t.status = s.status
  fault : t.fault = s.fault
  commands : t.commands = s.commands
  responses : t.responses = s.responses

theorem Untouched.refl (s : State) : Untouched s s := ⟨rfl, rfl, rfl, rfl, rfl, rfl⟩

theorem Untouched.trans {s t u : State} (h : Untouched s t) (k : Untouched t u) : Untouched s u :=
  ⟨k.life.trans h.life, k.owned.trans h.owned, k.status.trans h.status, k.fault.trans h.fault,
    k.commands.trans h.commands, k.responses.trans h.responses⟩

/-- One micro-operation leaves them alone. -/
theorem perform_untouched (o : MicroOp) (s : State) : Untouched s (perform o s) := by
  cases o <;> exact ⟨rfl, rfl, rfl, rfl, rfl, rfl⟩

/-- One statement leaves them alone. -/
theorem performStmt_untouched (m : Stmt) (s : State) : Untouched s (performStmt m s) := by
  cases m with
  | op o => exact perform_untouched o s
  | _ => exact ⟨rfl, rfl, rfl, rfl, rfl, rfl⟩

/-- Releases leave them alone. -/
theorem releaseAll_untouched (ps : List Nat) (s : State) : Untouched s (releaseAll ps s) := by
  induction ps generalizing s with
  | nil => exact Untouched.refl s
  | cons p ps ih => exact (perform_untouched (.release p) s).trans (ih _)

/-- A whole program leaves them alone. -/
theorem runStmts_untouched (prog : List Stmt) (s : State) : Untouched s (runStmts prog s) := by
  induction prog generalizing s with
  | nil => exact Untouched.refl s
  | cons m ms ih =>
    unfold runStmts
    split
    · exact releaseAll_untouched _ s
    · exact (performStmt_untouched m s).trans (ih _)

/-- Taking a command and running its program leaves them alone. -/
theorem runProgram_untouched (i : Instr) (prog : List Stmt) (s : State) : Untouched s (runProgram i prog s) :=
  (show Untouched s (accept i prog s) from ⟨rfl, rfl, rfl, rfl, rfl, rfl⟩).trans (runStmts_untouched _ _)

/-! ### Byte order and bits -/

/-- The four bytes of a 32-bit field read back as the field (R63). -/
theorem le32_le32Bytes (w : Word32) :
    le32 (w.extractLsb' 0 8) (w.extractLsb' 8 8) (w.extractLsb' 16 8) (w.extractLsb' 24 8) = w := by
  unfold le32
  apply BitVec.eq_of_getLsbD_eq
  intro i hi
  simp only [BitVec.getLsbD_append, BitVec.getLsbD_extractLsb']
  split
  · next h => simp [h]
  · split
    · next h1 h2 => simp [show i - 8 < 8 from h2, show 8 + (i - 8) = i by omega]
    · split
      · next h1 h2 h3 => simp [show i - 8 - 8 < 8 from h3, show 16 + (i - 8 - 8) = i by omega]
      · next h1 h2 h3 =>
        simp [show i - 8 - 8 - 8 < 8 by omega, show 24 + (i - 8 - 8 - 8) = i by omega]

@[simp] theorem le32Bytes_length (w : Word32) : (le32Bytes w).length = 4 := rfl

/-- A 32-bit field at the head of a stream reads back (R63). -/
@[simp] theorem wordAt_le32Bytes (w : Word32) (bs : List Byte) : wordAt (le32Bytes w ++ bs) 0 = w :=
  le32_le32Bytes w

/-- The bits of a byte after one is replaced (R109). -/
theorem getLsbD_setBit (b : Byte) (i j : Nat) (v : Level) (hj : j < 8) :
    (setBit b i v).getLsbD j = if j = i then v else b.getLsbD j := by
  unfold setBit
  simp only [BitVec.getLsbD_or, BitVec.getLsbD_and, BitVec.getLsbD_not, BitVec.getLsbD_shiftLeft]
  by_cases h : j = i
  · subst h
    cases v <;> simp [hj]
  · by_cases hlt : j < i
    · simp [hj, h, hlt]
    · have : j - i ≠ 0 := by omega
      cases v <;> simp [hj, h, hlt, this]

end Sys2Proof.Laws
end

