-- ==== Sys2Proof/Laws/Run.lean ====
section
/-! SUPPORT. What running a program without checks does to each part of the state, said once: latches, modes, claims,
the trace, `tmin`, the device; and what a valid configuration gives. -/

namespace Sys2Proof.Laws

open Sys2Proof.Machine

variable {prog : List Stmt} {p : Nat}

theorem NoCheck.head {m : Stmt} (h : NoCheck (m :: prog)) (undo : List Nat) : m ≠ .checkClaim undo :=
  fun e => h undo (e ▸ List.mem_cons_self)

theorem NoCheck.tail {m : Stmt} (h : NoCheck (m :: prog)) : NoCheck prog :=
  fun undo hm => h undo (List.mem_cons_of_mem _ hm)

/-- A fact that every statement keeps is kept by the program. -/
theorem runStmts_keeps (P : State → Prop) (hn : NoCheck prog)
    (h : ∀ m ∈ prog, ∀ s, P s → P (performStmt m s)) (s : State) (hs : P s) : P (runStmts prog s) := by
  induction prog generalizing s with
  | nil => exact hs
  | cons m ms ih =>
    rw [runStmts_cons hn.head]
    exact ih hn.tail (fun m hm => h m (List.mem_cons_of_mem _ hm)) _ (h m List.mem_cons_self s hs)

/-- A part of the state that no statement changes is unchanged by the program. -/
theorem runStmts_same {α : Type} (f : State → α) (hn : NoCheck prog)
    (h : ∀ m ∈ prog, ∀ s, f (performStmt m s) = f s) (s : State) : f (runStmts prog s) = f s :=
  runStmts_keeps (fun t => f t = f s) hn (fun m hm t ht => (h m hm t).trans ht) s rfl

/-! ### Pads -/

/-- A number above 27 has no pad (R26). -/
theorem pad_of_ge (s : State) (hp : ¬ p < 28) : s.pad p = Pad.launch := by
  unfold State.pad
  simp [Vector.getElem?_eq_none (by omega : 28 ≤ p)]

/-- The latch of `p` after a program, from its latch before. -/
def latchAfter (p : Nat) : List Stmt → Level → Level
  | [], v => v
  | .op (.write q w) :: ms, v => latchAfter p ms (if p = q then w else v)
  | _ :: ms, v => latchAfter p ms v

/-- The mode of `p` after a program, from its mode before. -/
def modeAfter (p : Nat) : List Stmt → PadMode → PadMode
  | [], m => m
  | .op (.mode q m') :: ms, m => modeAfter p ms (if p = q then m' else m)
  | _ :: ms, m => modeAfter p ms m

theorem latchAfter_cons (m : Stmt) (ms : List Stmt) (v : Level) :
    latchAfter p (m :: ms) v = latchAfter p ms (latchAfter p [m] v) := by
  cases m with
  | op o => cases o <;> rfl
  | _ => rfl

theorem modeAfter_cons (m : Stmt) (ms : List Stmt) (v : PadMode) :
    modeAfter p (m :: ms) v = modeAfter p ms (modeAfter p [m] v) := by
  cases m with
  | op o => cases o <;> rfl
  | _ => rfl

theorem latchAfter_append (a b : List Stmt) (v : Level) :
    latchAfter p (a ++ b) v = latchAfter p b (latchAfter p a v) := by
  induction a generalizing v with
  | nil => rfl
  | cons m ms ih => rw [List.cons_append, latchAfter_cons, ih, ← latchAfter_cons]

theorem modeAfter_append (a b : List Stmt) (v : PadMode) :
    modeAfter p (a ++ b) v = modeAfter p b (modeAfter p a v) := by
  induction a generalizing v with
  | nil => rfl
  | cons m ms ih => rw [List.cons_append, modeAfter_cons, ih, ← modeAfter_cons]

/-- A program that never writes `p` keeps its latch. -/
theorem latchAfter_same (h : ∀ v, Stmt.op (.write p v) ∉ prog) (v : Level) : latchAfter p prog v = v := by
  induction prog generalizing v with
  | nil => rfl
  | cons m ms ih =>
    rw [latchAfter_cons, ih fun v hm => h v (List.mem_cons_of_mem _ hm)]
    cases m with
    | op o =>
      cases o with
      | write q w =>
        show (if p = q then w else v) = v
        exact if_neg fun e => h w (by rw [e]; exact List.mem_cons_self)
      | _ => rfl
    | _ => rfl

/-- A program that never sets the mode of `p` keeps it. -/
theorem modeAfter_same (h : ∀ m, Stmt.op (.mode p m) ∉ prog) (v : PadMode) : modeAfter p prog v = v := by
  induction prog generalizing v with
  | nil => rfl
  | cons m ms ih =>
    rw [modeAfter_cons, ih fun v hm => h v (List.mem_cons_of_mem _ hm)]
    cases m with
    | op o =>
      cases o with
      | mode q w =>
        show (if p = q then w else v) = v
        exact if_neg fun e => h w (by rw [e]; exact List.mem_cons_self)
      | _ => rfl
    | _ => rfl

theorem latch_performStmt (m : Stmt) (s : State) (hp : p < 28) :
    ((performStmt m s).pad p).latch = latchAfter p [m] (s.pad p).latch := by
  cases m with
  | op o =>
    cases o with
    | claim q => simp only [performStmt, perform, pad_doClaim]; split <;> simp_all [latchAfter]
    | release q => simp only [performStmt, perform, pad_doRelease]; split <;> simp_all [latchAfter]
    | mode q m => simp only [performStmt, perform, pad_doMode]; split <;> simp_all [latchAfter]
    | write q v =>
      simp only [performStmt, perform, pad_doWrite, latchAfter]
      by_cases e : p = q
      · subst e; simp [hp]
      · simp [e]
    | _ => rfl
  | _ => rfl

theorem mode_performStmt (m : Stmt) (s : State) (hp : p < 28) :
    ((performStmt m s).pad p).mode = modeAfter p [m] (s.pad p).mode := by
  cases m with
  | op o =>
    cases o with
    | claim q => simp only [performStmt, perform, pad_doClaim]; split <;> simp_all [modeAfter]
    | release q => simp only [performStmt, perform, pad_doRelease]; split <;> simp_all [modeAfter]
    | write q v => simp only [performStmt, perform, pad_doWrite]; split <;> simp_all [modeAfter]
    | mode q m =>
      simp only [performStmt, perform, pad_doMode, modeAfter]
      by_cases e : p = q
      · subst e; simp [hp]
      · simp [e]
    | _ => rfl
  | _ => rfl

/-- Each latch after a program. -/
theorem latch_runStmts (hn : NoCheck prog) (s : State) (hp : p < 28) :
    ((runStmts prog s).pad p).latch = latchAfter p prog (s.pad p).latch := by
  induction prog generalizing s with
  | nil => rfl
  | cons m ms ih => rw [runStmts_cons hn.head, ih hn.tail, latch_performStmt m s hp, ← latchAfter_cons]

/-- Each mode after a program. -/
theorem mode_runStmts (hn : NoCheck prog) (s : State) (hp : p < 28) :
    ((runStmts prog s).pad p).mode = modeAfter p prog (s.pad p).mode := by
  induction prog generalizing s with
  | nil => rfl
  | cons m ms ih => rw [runStmts_cons hn.head, ih hn.tail, mode_performStmt m s hp, ← modeAfter_cons]

/-- A program without claims and releases keeps every claim. -/
theorem claimed_runStmts (hn : NoCheck prog) (hc : ∀ q, Stmt.op (.claim q) ∉ prog)
    (hr : ∀ q, Stmt.op (.release q) ∉ prog) (s : State) (p : Nat) :
    ((runStmts prog s).pad p).claimed = (s.pad p).claimed := by
  refine runStmts_same (fun s => (s.pad p).claimed) hn (fun m hm s => ?_) s
  cases m with
  | op o =>
    cases o with
    | claim q => exact absurd hm (hc q)
    | release q => exact absurd hm (hr q)
    | mode q w => simp only [performStmt, perform, pad_doMode]; split <;> simp_all
    | write q w => simp only [performStmt, perform, pad_doWrite]; split <;> simp_all
    | _ => rfl
  | _ => rfl

/-! ### Trace, time and device -/

/-- The entry a micro-operation leaves in the trace (R73). -/
def eventOf (s : State) : MicroOp → Event
  | .claim p => .claim p (!(s.pad p).claimed)
  | .release p => .release p
  | .mode p m => .mode p m
  | .write p v => .write p v
  | .sample p => .sample p (s.level p)
  | .delay d => .delay d

theorem perform_trace (o : MicroOp) (s : State) : (perform o s).trace = s.trace ++ [eventOf s o] := by
  cases o <;> rfl

@[simp] theorem microOp_eventOf (o : MicroOp) (s : State) : (eventOf s o).microOp = o := by cases o <;> rfl

/-- A program adds to the trace the events of its micro-operations, in order (R22, R45, R73). -/
theorem trace_runStmts (hn : NoCheck prog) (s : State) :
    ∃ es, (runStmts prog s).trace = s.trace ++ es ∧ es.map Event.microOp = microOps prog := by
  induction prog generalizing s with
  | nil => exact ⟨[], by simp, rfl⟩
  | cons m ms ih =>
    obtain ⟨es, h1, h2⟩ := ih hn.tail (performStmt m s)
    rw [runStmts_cons hn.head, h1]
    cases m with
    | op o =>
      refine ⟨eventOf s o :: es, ?_, ?_⟩
      · rw [show performStmt (.op o) s = perform o s from rfl, perform_trace, List.append_assoc]
        rfl
      · rw [List.map_cons, h2, microOp_eventOf]
        rfl
    | _ => exact ⟨es, rfl, h2⟩

/-- `tmin` grows by the program's delays (R79). -/
theorem tmin_runStmts (hn : NoCheck prog) (s : State) :
    (runStmts prog s).tmin = s.tmin + delaySum (microOps prog) := by
  induction prog generalizing s with
  | nil => rfl
  | cons m ms ih =>
    rw [runStmts_cons hn.head, ih hn.tail]
    cases m with
    | op o =>
      cases o
      all_goals simp [performStmt, perform, microOps, Stmt.microOp, delaySum, Nat.add_assoc]
    | _ => rfl

/-- The oracle stays the oracle. -/
theorem oracle_runStmts (hn : NoCheck prog) (s : State) (h : s.dev = .oracle) : (runStmts prog s).dev = .oracle := by
  refine runStmts_keeps (fun s => s.dev = .oracle) hn (fun m _ s h => ?_) s h
  cases m with
  | op o =>
    cases o with
    | write q v => simp [performStmt, perform, deviceAfterWrite, h]
    | _ => exact h
  | _ => exact h

/-! ### A valid configuration -/

theorem legal_iff (b : Byte) : legal b = true ↔ b.toNat < 28 := by
  show (decide (0 ≤ b.toNat) && decide (b.toNat ≤ 27)) = true ↔ b.toNat < 28
  simp only [Bool.and_eq_true, decide_eq_true_eq]
  omega

/-- A legal pin is not unset (R16). -/
theorem not_unset_of_legal {b : Byte} (h : legal b = true) : unset b = false := by
  rw [legal_iff] at h
  refine decide_eq_false fun e => ?_
  subst e
  exact absurd h (by decide)

/-- Every line of a valid configuration names a GPIO number with a pad (R84 V3 to V5). -/
theorem gpio_lt {c : BusConfig} (h : valid c = true) {l : Line} (hl : l ∈ configLines c) : gpio c l < 28 := by
  simp only [valid, Bool.and_eq_true, validControl, validHigh, validLow, Bool.or_eq_true, legal_iff] at h
  obtain ⟨⟨⟨⟨⟨-, -⟩, hrs, hew⟩, ⟨⟨h4, h5⟩, h6⟩, h7⟩, hlow⟩, -⟩ := h
  simp only [configLines, lines, List.mem_append] at hl
  rcases hl with (hl | hl) | hl
  · by_cases hw : width4 c = true
    · simp only [dataLines, hw, if_true, highLines, List.mem_cons, List.not_mem_nil, or_false] at hl
      rcases hl with rfl | rfl | rfl | rfl <;> assumption
    · rcases hlow with hu | ⟨⟨⟨h0, h1⟩, h2⟩, h3⟩
      · exact absurd (by simp [width4, hu]) hw
      · simp [dataLines, hw, lowLines, highLines] at hl
        rcases hl with rfl | rfl | rfl | rfl | rfl | rfl | rfl | rfl <;> assumption
  · simp only [List.mem_cons, List.not_mem_nil, or_false] at hl
    rcases hl with rfl | rfl <;> assumption
  · by_cases hr : readable c = true
    · simp only [hr, if_true, List.mem_cons, List.not_mem_nil, or_false] at hl
      subst hl
      exact (legal_iff _).mp hr
    · simp [hr] at hl

/-- The lines of a valid configuration name different GPIO numbers (R84 V6). -/
theorem gpio_inj {c : BusConfig} (h : valid c = true) {l m : Line} (hl : l ∈ configLines c) (hm : m ∈ configLines c) :
    gpio c l = gpio c m ↔ l = m := by
  refine ⟨fun e => ?_, fun e => e ▸ rfl⟩
  simp only [valid, Bool.and_eq_true, validDistinct, decide_eq_true_eq] at h
  exact List.inj_on_of_nodup_map h.2 hl hm e

end Sys2Proof.Laws
end

