-- ==== Sys2Proof/Laws/Lifecycle.lean ====
section
/-! SUPPORT. What the claim phase, the releases and the initialisation phase of OPEN and CLOSE can do, said once. -/

namespace Sys2Proof.Laws

open Sys2Proof.Machine

/-! ### Claims and releases -/

/-- What claims and releases leave alone: all but `claimed`, the trace, `seq` and the last result (R74, R75). -/
structure ClaimsOnly (s t : State) : Prop extends Untouched s t where
  txb : t.txb = s.txb
  rxb : t.rxb = s.rxb
  cnt : t.cnt = s.cnt
  h : t.h = s.h
  rdata : t.rdata = s.rdata
  dir : t.dir = s.dir
  dev : t.dev = s.dev
  draws : t.draws = s.draws
  tmin : t.tmin = s.tmin
  nEw : t.nEw = s.nEw
  nRw : t.nRw = s.nRw
  mode : ∀ p, (t.pad p).mode = (s.pad p).mode
  latch : ∀ p, (t.pad p).latch = (s.pad p).latch

theorem ClaimsOnly.refl (s : State) : ClaimsOnly s s :=
  ⟨Untouched.refl s, rfl, rfl, rfl, rfl, rfl, rfl, rfl, rfl, rfl, rfl, rfl, fun _ => rfl, fun _ => rfl⟩

theorem ClaimsOnly.trans {s t u : State} (a : ClaimsOnly s t) (b : ClaimsOnly t u) : ClaimsOnly s u :=
  ⟨a.toUntouched.trans b.toUntouched, b.txb.trans a.txb, b.rxb.trans a.rxb, b.cnt.trans a.cnt, b.h.trans a.h,
    b.rdata.trans a.rdata, b.dir.trans a.dir, b.dev.trans a.dev, b.draws.trans a.draws, b.tmin.trans a.tmin,
    b.nEw.trans a.nEw, b.nRw.trans a.nRw, fun p => (b.mode p).trans (a.mode p), fun p => (b.latch p).trans (a.latch p)⟩

theorem claimsOnly_doClaim (p : Nat) (s : State) : ClaimsOnly s (doClaim p s) := by
  refine ⟨perform_untouched (.claim p) s, rfl, rfl, rfl, rfl, rfl, rfl, rfl, rfl, rfl, rfl, rfl, fun q => ?_, fun q => ?_⟩
  all_goals rw [pad_doClaim]; split <;> simp_all

theorem claimsOnly_doRelease (p : Nat) (s : State) : ClaimsOnly s (doRelease p s) := by
  refine ⟨perform_untouched (.release p) s, rfl, rfl, rfl, rfl, rfl, rfl, rfl, rfl, rfl, rfl, rfl, fun q => ?_, fun q => ?_⟩
  all_goals rw [pad_doRelease]; split <;> simp_all

/-- Claims in the order given. -/
def claimAll (ps : List Nat) (s : State) : State := ps.foldl (fun s p => doClaim p s) s

theorem claimAll_cons (p : Nat) (ps : List Nat) (s : State) : claimAll (p :: ps) s = claimAll ps (doClaim p s) := rfl

theorem releaseAll_cons (p : Nat) (ps : List Nat) (s : State) :
    releaseAll (p :: ps) s = releaseAll ps (doRelease p s) := rfl

theorem claimsOnly_claimAll (ps : List Nat) (s : State) : ClaimsOnly s (claimAll ps s) := by
  induction ps generalizing s with
  | nil => exact ClaimsOnly.refl s
  | cons p ps ih => exact (claimsOnly_doClaim p s).trans (ih _)

theorem claimsOnly_releaseAll (ps : List Nat) (s : State) : ClaimsOnly s (releaseAll ps s) := by
  induction ps generalizing s with
  | nil => exact ClaimsOnly.refl s
  | cons p ps ih => exact (claimsOnly_doRelease p s).trans (ih _)

/-- Which pins are claimed after claims. -/
theorem claimed_claimAll (ps : List Nat) (s : State) (q : Nat) :
    ((claimAll ps s).pad q).claimed = if q ∈ ps ∧ q < 28 then true else (s.pad q).claimed := by
  induction ps generalizing s with
  | nil => simp [claimAll]
  | cons p ps ih =>
    rw [claimAll_cons, ih, pad_doClaim]
    by_cases h : q = p
    · subst h; by_cases h2 : q < 28 <;> simp [h2]
    · simp [h]

/-- Which pins are claimed after releases. -/
theorem claimed_releaseAll (ps : List Nat) (s : State) (q : Nat) :
    ((releaseAll ps s).pad q).claimed = if q ∈ ps ∧ q < 28 then false else (s.pad q).claimed := by
  induction ps generalizing s with
  | nil => simp [releaseAll]
  | cons p ps ih =>
    rw [releaseAll_cons, ih, pad_doRelease]
    by_cases h : q = p
    · subst h; by_cases h2 : q < 28 <;> simp [h2]
    · simp [h]

theorem trace_releaseAll (ps : List Nat) (s : State) :
    (releaseAll ps s).trace = s.trace ++ ps.map fun p => .release p := by
  induction ps generalizing s with
  | nil => simp [releaseAll]
  | cons p ps ih => rw [releaseAll_cons, ih]; simp

theorem res_releaseAll (ps : List Nat) (s : State) : (releaseAll ps s).res = s.res := by
  induction ps generalizing s with
  | nil => rfl
  | cons p ps ih => rw [releaseAll_cons, ih]; rfl

/-- A free pin stays free while others are claimed. -/
theorem free_after_claim {p : Nat} {ps : List Nat} {s : State} (hn : (p :: ps).Nodup)
    (h : ∀ q ∈ p :: ps, (s.pad q).claimed = false) : ∀ q ∈ ps, ((doClaim p s).pad q).claimed = false := by
  intro q hq
  have hne : q ≠ p := by rintro rfl; exact (List.nodup_cons.mp hn).1 hq
  simp [pad_doClaim, hne, h q (List.mem_cons_of_mem _ hq)]

theorem trace_claimAll {ps : List Nat} {s : State} (hn : ps.Nodup) (h : ∀ p ∈ ps, (s.pad p).claimed = false) :
    (claimAll ps s).trace = s.trace ++ ps.map fun p => .claim p true := by
  induction ps generalizing s with
  | nil => simp [claimAll]
  | cons p ps ih =>
    rw [claimAll_cons, ih (List.nodup_cons.mp hn).2 (free_after_claim hn h)]
    simp [h p]

theorem res_claimAll {ps : List Nat} {s : State} (hn : ps.Nodup) (h : ∀ p ∈ ps, (s.pad p).claimed = false)
    (hne : ps ≠ []) : (claimAll ps s).res = true := by
  induction ps generalizing s with
  | nil => exact absurd rfl hne
  | cons p ps ih =>
    by_cases he : ps = []
    · subst he; simp [claimAll, h p]
    · exact ih (List.nodup_cons.mp hn).2 (free_after_claim hn h) he

/-! ### The claim phase -/

/-- The claim phase on free pins grants every claim (R86). -/
theorem runStmts_claimPhase (granted : List Nat) {ps : List Nat} (rest : List Stmt) {s : State} (hn : ps.Nodup)
    (h : ∀ p ∈ ps, (s.pad p).claimed = false) :
    runStmts (claimPhase granted ps ++ rest) s = runStmts rest (claimAll ps s) := by
  induction ps generalizing granted s with
  | nil => rfl
  | cons p ps ih =>
    have hr : (perform (.claim p) s).res = true := by simp [perform, h p]
    simp only [claimPhase, List.cons_append, runStmts_op, runStmts_checkClaim]
    rw [if_pos hr]
    exact ih _ (List.nodup_cons.mp hn).2 (free_after_claim hn h)

/-- The claim phase at the first pin already held: the pins granted are released in reverse, and the rest of the
program is not run (R86). -/
theorem runStmts_claimPhase_refused (granted : List Nat) {ps : List Nat} {p : Nat} (later : List Nat)
    (rest : List Stmt) {s : State} (hn : ps.Nodup) (hp : p ∉ ps) (h : ∀ q ∈ ps, (s.pad q).claimed = false)
    (hc : (s.pad p).claimed = true) :
    runStmts (claimPhase granted (ps ++ p :: later) ++ rest) s =
      releaseAll (ps.reverse ++ granted) (doClaim p (claimAll ps s)) := by
  induction ps generalizing granted s with
  | nil =>
    have hr : (perform (.claim p) s).res = false := by simp [perform, hc]
    simp only [List.nil_append, claimPhase, List.cons_append, runStmts_op, runStmts_checkClaim]
    rw [if_neg (by simp [hr])]
    rfl
  | cons q ps ih =>
    have hr : (perform (.claim q) s).res = true := by simp [perform, h q]
    have hpq : p ≠ q := fun e => hp (e ▸ List.mem_cons_self)
    simp only [claimPhase, List.cons_append, runStmts_op, runStmts_checkClaim]
    rw [if_pos hr, show perform (.claim q) s = doClaim q s from rfl,
      ih _ (List.nodup_cons.mp hn).2 (fun hm => hp (List.mem_cons_of_mem _ hm)) (free_after_claim hn h)]
    · simp [claimAll_cons]
    · simp [pad_doClaim, hpq, hc]

/-- Either every pin is free, or there is a first one that is held. -/
theorem first_held (ps : List Nat) (s : State) :
    (∀ p ∈ ps, (s.pad p).claimed = false) ∨
      ∃ granted p later, ps = granted ++ p :: later ∧ (∀ q ∈ granted, (s.pad q).claimed = false) ∧
        (s.pad p).claimed = true := by
  induction ps with
  | nil => exact .inl (by simp)
  | cons p ps ih =>
    cases hp : (s.pad p).claimed with
    | true => exact .inr ⟨[], p, ps, rfl, by simp, hp⟩
    | false =>
      rcases ih with h | ⟨g, q, l, rfl, hg, hq⟩
      · exact .inl (by simpa [hp] using h)
      · exact .inr ⟨p :: g, q, l, rfl, by simpa [hp] using hg, hq⟩

/-! ### The initialisation phase and CLOSE -/

theorem noCheck_initPhase (c : BusConfig) (ls : List Line) : NoCheck (initPhase c ls) := by
  intro undo h
  simp [initPhase] at h

theorem noCheck_closeProg (r : OpenRegs) : NoCheck (closeProg r) := by
  intro undo h
  simp [closeProg] at h

/-- The initialisation phase in the trace (R87). -/
theorem trace_initPhase (c : BusConfig) (ls : List Line) (s : State) :
    (runStmts (initPhase c ls) s).trace =
      s.trace ++ ls.flatMap fun l => [.write (gpio c l) (initLevel l), .mode (gpio c l) .out] := by
  induction ls generalizing s with
  | nil => simp [initPhase]
  | cons l ls ih =>
    show (runStmts (.op (.write _ _) :: .op (.mode _ _) :: initPhase c ls) s).trace = _
    rw [runStmts_op, runStmts_op, ih]
    simp [perform]

/-- Each latch and mode after the initialisation phase, for lines on different pins (R87). -/
theorem pad_initPhase {c : BusConfig} {ls : List Line} (hn : (ls.map (gpio c)).Nodup) {l : Line} (hl : l ∈ ls)
    (hp : gpio c l < 28) (s : State) :
    (runStmts (initPhase c ls) s).pad (gpio c l) =
      { claimed := (s.pad (gpio c l)).claimed, mode := .out, latch := initLevel l } := by
  have h0 : ∀ (ls : List Line) (s : State), gpio c l ∉ ls.map (gpio c) →
      (runStmts (initPhase c ls) s).pad (gpio c l) = s.pad (gpio c l) := by
    intro ls
    induction ls with
    | nil => intro s _; rfl
    | cons m ls ih =>
      intro s h
      rw [List.map_cons, List.mem_cons, not_or] at h
      show (runStmts (.op (.write _ _) :: .op (.mode _ _) :: initPhase c ls) s).pad _ = _
      rw [runStmts_op, runStmts_op, ih _ h.2]
      simp [perform, pad_doMode, pad_doWrite, h.1]
  induction ls generalizing s with
  | nil => simp at hl
  | cons m ls ih =>
    rw [List.map_cons, List.nodup_cons] at hn
    show (runStmts (.op (.write _ _) :: .op (.mode _ _) :: initPhase c ls) s).pad _ = _
    rw [runStmts_op, runStmts_op]
    by_cases e : l = m
    · subst e
      rw [h0 _ _ hn.1]
      simp [perform, pad_doMode, pad_doWrite, hp]
    · have hl' : l ∈ ls := (List.mem_cons.mp hl).resolve_left e
      have hne : gpio c l ≠ gpio c m := fun h => hn.1 (h ▸ List.mem_map_of_mem hl')
      rw [ih hn.2 hl']
      simp [perform, pad_doMode, pad_doWrite, hne]

/-- A pin that is no line keeps its pad in the initialisation phase. -/
theorem pad_initPhase_other {c : BusConfig} {ls : List Line} {p : Nat} (h : p ∉ ls.map (gpio c)) (s : State) :
    (runStmts (initPhase c ls) s).pad p = s.pad p := by
  induction ls generalizing s with
  | nil => rfl
  | cons m ls ih =>
    rw [List.map_cons, List.mem_cons, not_or] at h
    show (runStmts (.op (.write _ _) :: .op (.mode _ _) :: initPhase c ls) s).pad _ = _
    rw [runStmts_op, runStmts_op, ih h.2]
    simp [perform, pad_doMode, pad_doWrite, h.1]

/-- What the initialisation phase leaves alone besides (R87, R94). -/
theorem initPhase_same {α : Type} (f : State → α) (c : BusConfig) (ls : List Line)
    (hw : ∀ p v s, f (doWrite p v s) = f s) (hm : ∀ p m s, f (doMode p m s) = f s) (s : State) :
    f (runStmts (initPhase c ls) s) = f s := by
  refine runStmts_same f (noCheck_initPhase c ls) (fun m hmem s => ?_) s
  simp only [initPhase, List.mem_flatMap, List.mem_cons, List.not_mem_nil, or_false] at hmem
  obtain ⟨l, -, rfl | rfl⟩ := hmem
  · exact hw _ _ s
  · exact hm _ _ s

/-- CLOSE's program is its releases (R92). -/
theorem runStmts_closeProg (r : OpenRegs) (s : State) :
    runStmts (closeProg r) s = releaseAll (pins r.cfg r.w4 r.canRead).reverse s := by
  unfold closeProg
  induction (pins r.cfg r.w4 r.canRead).reverse generalizing s with
  | nil => rfl
  | cons p ps ih => rw [List.map_cons, runStmts_op, ih]; rfl

end Sys2Proof.Laws
end

