-- ==== Sys2Proof/Laws/PerInstr.lean ====
section
/-! SUPPORT. Statements about every command as syntax, one lemma per constructor. -/

namespace Sys2Proof.Laws.PacketLength

/-- The length the decoder finds from a packet's head is the packet's length (R66). -/
def Statement (i : Instr) : Prop := i.wf = true → packetLength (encode i) = (encode i).length

theorem openBus (c : BusConfig) : Statement (.openBus c) := fun _ => rfl

theorem wrc (b : Byte) : Statement (.wrc b) := fun _ => rfl

theorem wrb (bytes : List Byte) : Statement (.wrb bytes) := by
  intro h
  have hlen : bytes.length < 2 ^ 32 := of_decide_eq_true h
  have hw : wordAt (encode (.wrb bytes)) 1 = BitVec.ofNat 32 bytes.length := le32_le32Bytes _
  have hp : packetLength (encode (.wrb bytes)) = 5 + (wordAt (encode (.wrb bytes)) 1).toNat := rfl
  rw [hp, hw, BitVec.toNat_ofNat, Nat.mod_eq_of_lt hlen]
  simp only [encode, List.length_cons, List.length_append, le32Bytes_length]
  omega

theorem rdb (count : Word32) : Statement (.rdb count) := fun _ => rfl

theorem rdr : Statement .rdr := fun _ => rfl

theorem closeBus : Statement .closeBus := fun _ => rfl

end Sys2Proof.Laws.PacketLength
end

