-- ==== Sys2Proof/Laws/Transfers.lean ====
section
/-! SUPPORT. What one byte written, one byte read and the frame around reads can do, said once (R100, R110, R111). -/

namespace Sys2Proof.Laws

open Sys2Proof.Machine

variable (r : OpenRegs) (rsLevel : Level) (b : Byte) (s : State)

/-! ### Traces without results -/

/-- The event of a micro-operation that has no result. -/
def plainEvent : MicroOp → Event
  | .claim p => .claim p true
  | .release p => .release p
  | .mode p m => .mode p m
  | .write p v => .write p v
  | .sample p => .sample p false
  | .delay d => .delay d

/-- A program that neither claims nor samples leaves exactly its micro-operations in the trace. -/
theorem trace_runStmts_plain {prog : List Stmt} (hn : NoCheck prog) (hc : ∀ p, Stmt.op (.claim p) ∉ prog)
    (hs : ∀ p, Stmt.op (.sample p) ∉ prog) (s : State) :
    (runStmts prog s).trace = s.trace ++ (microOps prog).map plainEvent := by
  induction prog generalizing s with
  | nil => simp [microOps]
  | cons m ms ih =>
    rw [runStmts_cons hn.head, ih hn.tail (fun p h => hc p (List.mem_cons_of_mem _ h))
      (fun p h => hs p (List.mem_cons_of_mem _ h))]
    cases m with
    | op o =>
      cases o with
      | claim p => exact absurd List.mem_cons_self (hc p)
      | sample p => exact absurd List.mem_cons_self (hs p)
      | _ => simp [performStmt, perform, microOps, Stmt.microOp, plainEvent]
    | _ => rfl

/-! ### One byte written -/

theorem noCheck_busWrite : NoCheck (busWrite r rsLevel b) := by
  intro undo
  cases h : r.w4 <;> simp [busWrite, driveData4, driveData8, writeCycle, h]

/-- A byte written claims, releases and samples nothing, and sets no mode. -/
theorem kinds_busWrite (p : Nat) (m : PadMode) :
    Stmt.op (.claim p) ∉ busWrite r rsLevel b ∧ Stmt.op (.release p) ∉ busWrite r rsLevel b ∧
      Stmt.op (.sample p) ∉ busWrite r rsLevel b ∧ Stmt.op (.mode p m) ∉ busWrite r rsLevel b := by
  cases h : r.w4 <;> simp [busWrite, driveData4, driveData8, writeCycle, h]

/-- A byte written drives RS, EW and the data lines only. -/
theorem writes_busWrite {q : Nat} {v : Level} (h : Stmt.op (.write q v) ∈ busWrite r rsLevel b) :
    q = gpio r.cfg .rs ∨ q = gpio r.cfg .ew ∨ q ∈ (dataLines r.w4).map (gpio r.cfg) := by
  cases hw : r.w4
  all_goals
    simp [busWrite, driveData4, driveData8, writeCycle, hw] at h
    simp [dataLines, lowLines, highLines]
    tauto

/-- The registers after a byte written: `TXB` holds it, `h` is 1 in 4-bit mode, the ghosts grow (R100). -/
theorem regs_busWrite :
    (runStmts (busWrite r rsLevel b) s).txb = b ∧
      (runStmts (busWrite r rsLevel b) s).h = (if r.w4 then true else s.h) ∧
      (runStmts (busWrite r rsLevel b) s).nEw = s.nEw + cyclesPerByte r := by
  cases h : r.w4
  all_goals simp [busWrite, cyclesPerByte, h, runStmts_cons, driveData8, driveData4, writeCycle, performStmt, perform]

/-- A byte written leaves the read side, the counter and the direction alone. -/
theorem same_busWrite :
    (runStmts (busWrite r rsLevel b) s).rxb = s.rxb ∧ (runStmts (busWrite r rsLevel b) s).rdata = s.rdata ∧
      (runStmts (busWrite r rsLevel b) s).res = s.res ∧ (runStmts (busWrite r rsLevel b) s).dir = s.dir ∧
      (runStmts (busWrite r rsLevel b) s).draws = s.draws ∧ (runStmts (busWrite r rsLevel b) s).nRw = s.nRw ∧
      (runStmts (busWrite r rsLevel b) s).cnt = s.cnt := by
  cases h : r.w4
  all_goals simp [busWrite, h, runStmts_cons, driveData8, driveData4, writeCycle, performStmt, perform]

/-- The nanoseconds a byte written waits (R100, R106). -/
theorem delaySum_busWrite :
    delaySum (microOps (busWrite r rsLevel b)) =
      cyclesPerByte r * (r.cfg.tSu.toNat + r.cfg.tClk.toNat + r.cfg.tH.toNat) := by
  cases h : r.w4
  all_goals
    simp [microOps, List.filterMap_cons, busWrite, cyclesPerByte, h, driveData8, driveData4, writeCycle, Stmt.microOp, delaySum, delayNs]
    omega

/-- The write strobe rests idle after a byte written (R98). -/
theorem ew_busWrite (v : Level) : latchAfter (gpio r.cfg .ew) (busWrite r rsLevel b) v = Config.ewIdle := by
  cases h : r.w4
  all_goals simp [busWrite, h, driveData8, driveData4, writeCycle, latchAfter]

/-- RS holds its level after a byte written, if no other line shares its pin (R102). -/
theorem rs_busWrite (v : Level) (hew : gpio r.cfg .rs ≠ gpio r.cfg .ew)
    (hd : ∀ l ∈ dataLines r.w4, gpio r.cfg .rs ≠ gpio r.cfg l) :
    latchAfter (gpio r.cfg .rs) (busWrite r rsLevel b) v = rsLevel := by
  cases h : r.w4
  all_goals
    simp [dataLines, h, lowLines, highLines] at hd
    simp [busWrite, h, driveData8, driveData4, writeCycle, latchAfter, hew, hd]

/-! ### One byte read -/

theorem noCheck_busRead : NoCheck (busRead r) := by
  intro undo
  cases h : r.w4 <;> simp [busRead, readCycle, sampleData, h]

/-- A byte read claims and releases nothing, and sets no mode. -/
theorem kinds_busRead (p : Nat) (m : PadMode) :
    Stmt.op (.claim p) ∉ busRead r ∧ Stmt.op (.release p) ∉ busRead r ∧ Stmt.op (.mode p m) ∉ busRead r := by
  cases h : r.w4 <;> simp [busRead, readCycle, sampleData, h]

/-- A byte read drives RW only. -/
theorem writes_busRead {q : Nat} {v : Level} (h : Stmt.op (.write q v) ∈ busRead r) : q = gpio r.cfg .rw := by
  cases hw : r.w4
  all_goals
    simp [busRead, readCycle, sampleData, hw] at h
    tauto

/-- A byte read leaves the write side, the counter, the direction and the bytes read before it alone. -/
theorem same_busRead :
    (runStmts (busRead r) s).txb = s.txb ∧ (runStmts (busRead r) s).rdata = s.rdata ∧
      (runStmts (busRead r) s).dir = s.dir ∧ (runStmts (busRead r) s).nEw = s.nEw ∧
      (runStmts (busRead r) s).cnt = s.cnt := by
  cases h : r.w4
  all_goals simp [busRead, h, runStmts_cons, readCycle, sampleData, performStmt, perform]

/-- The ghosts after a byte read (R108, R110). -/
theorem ghosts_busRead :
    (runStmts (busRead r) s).draws = s.draws + 8 ∧ (runStmts (busRead r) s).nRw = s.nRw + cyclesPerByte r := by
  cases h : r.w4
  all_goals simp [busRead, h, cyclesPerByte, runStmts_cons, readCycle, sampleData, performStmt, perform]

/-- The nibble phase after a byte read (R23, R110). -/
theorem phase_busRead : (runStmts (busRead r) s).h = if r.w4 then true else s.h := by
  cases h : r.w4
  all_goals simp [busRead, h, runStmts_cons, readCycle, sampleData, performStmt, perform]

/-- The nanoseconds a byte read waits (R110, R118). -/
theorem delaySum_busRead :
    delaySum (microOps (busRead r)) =
      cyclesPerByte r * (r.cfg.tSu.toNat + r.cfg.tRd.toNat + r.cfg.tProc.toNat) := by
  cases h : r.w4
  all_goals
    simp [microOps, List.filterMap_cons, busRead, cyclesPerByte, h, readCycle, sampleData, Stmt.microOp, delaySum, delayNs]
    omega

/-- The read strobe rests idle after a byte read (R108). -/
theorem rw_busRead (v : Level) : latchAfter (gpio r.cfg .rw) (busRead r) v = Config.rwIdle := by
  cases h : r.w4
  all_goals simp [busRead, h, readCycle, sampleData, latchAfter]

/-! ### What is sampled -/

/-- The level of pin `p` as the `k`-th sample from now finds it, if nothing but samples happens before it (R26, R78). -/
def levelAt (s : State) (k p : Nat) : Level :=
  match (s.pad p).mode with
  | .out => (s.pad p).latch
  | .inp => (driven s.dev p).getD (Config.ext (s.draws + k) p)

/-- The levels that the samples of data lines find, from the `k`-th sample on. -/
def lineLevels (c : BusConfig) (s : State) : Nat → List (Fin 8) → List Level
  | _, [] => []
  | k, i :: ls => levelAt s k (gpio c (.d i)) :: lineLevels c s (k + 1) ls

/-- Levels put into the bits of a byte, one after another. -/
def fillBits : List Nat → List Level → Byte → Byte
  | i :: is, v :: vs, b => fillBits is vs (setBit b i v)
  | _, _, b => b

/-- The events of samples with their results. -/
def sampleEvents (c : BusConfig) : List (Fin 8) → List Level → List Event
  | i :: ls, v :: vs => .sample (gpio c (.d i)) v :: sampleEvents c ls vs
  | _, _ => []

theorem lineLevels_congr (c : BusConfig) {s t : State} {k j : Nat} (hp : t.pads = s.pads) (hd : t.dev = s.dev)
    (hk : t.draws + k = s.draws + j) (ls : List (Fin 8)) : lineLevels c t k ls = lineLevels c s j ls := by
  induction ls generalizing k j with
  | nil => rfl
  | cons i ls ih =>
    have hpad : ∀ p, t.pad p = s.pad p := pad_congr hp
    simp only [lineLevels, levelAt, hpad, hd, hk]
    rw [ih (k := k + 1) (j := j + 1) (by omega)]

/-- `SampleData` (R109): one event a line, in order, its level in the line's bit of `RXB`; no pad and no device
changes. -/
theorem runStmts_sampleData (c : BusConfig) (ls : List (Fin 8)) (bit : Fin 8 → Nat) (s : State) :
    (runStmts (sampleData c ls bit) s).trace = s.trace ++ sampleEvents c ls (lineLevels c s 0 ls) ∧
      (runStmts (sampleData c ls bit) s).rxb = fillBits (ls.map bit) (lineLevels c s 0 ls) s.rxb ∧
      (runStmts (sampleData c ls bit) s).pads = s.pads ∧ (runStmts (sampleData c ls bit) s).dev = s.dev ∧
      (runStmts (sampleData c ls bit) s).draws = s.draws + ls.length := by
  induction ls generalizing s with
  | nil => simp [sampleData, lineLevels, sampleEvents, fillBits]
  | cons i ls ih =>
    have e : runStmts (sampleData c (i :: ls) bit) s =
        runStmts (sampleData c ls bit) (performStmt (.takeBit (bit i)) (doSample (gpio c (.d i)) s)) := rfl
    have hv : s.level (gpio c (.d i)) = levelAt s 0 (gpio c (.d i)) := rfl
    have hl : lineLevels c (performStmt (.takeBit (bit i)) (doSample (gpio c (.d i)) s)) 0 ls = lineLevels c s 1 ls :=
      lineLevels_congr c (s := s) (t := performStmt (.takeBit (bit i)) (doSample (gpio c (.d i)) s)) rfl rfl rfl ls
    obtain ⟨h1, h2, h3, h4, h5⟩ := ih (performStmt (.takeBit (bit i)) (doSample (gpio c (.d i)) s))
    rw [e, h1, h2, h3, h4, h5, hl]
    refine ⟨?_, ?_, rfl, rfl, ?_⟩
    · simp [performStmt, hv, lineLevels, sampleEvents]
    · simp [performStmt, hv, lineLevels, fillBits]
    · simp [performStmt]; omega

/-- The state in which a read cycle takes its samples: setup, leading edge, turnaround (R108). -/
def strobed (c : BusConfig) (s : State) : State :=
  doDelay (delayNs c.tRd) (doWrite (gpio c .rw) Config.rwActive (doDelay (delayNs c.tSu) s))

theorem runStmts_readCycle (c : BusConfig) (ls : List (Fin 8)) (bit : Fin 8 → Nat) (s : State) :
    runStmts (readCycle c ls bit) s =
      doDelay (delayNs c.tProc) (performStmt .countRw (doWrite (gpio c .rw) Config.rwIdle
        (runStmts (sampleData c ls bit) (strobed c s)))) := by
  have hn : NoCheck (sampleData c ls bit) := by intro undo; simp [sampleData]
  unfold readCycle
  rw [List.append_assoc, runStmts_append (by intro undo; simp), runStmts_append hn]
  rfl

/-- A read cycle (R108): its events with the levels sampled, and the bits they fill. -/
theorem readCycle_spec (c : BusConfig) (ls : List (Fin 8)) (bit : Fin 8 → Nat) (s : State) :
    (runStmts (readCycle c ls bit) s).trace =
        s.trace ++ [.delay (delayNs c.tSu), .write (gpio c .rw) Config.rwActive, .delay (delayNs c.tRd)] ++
          sampleEvents c ls (lineLevels c (strobed c s) 0 ls) ++
          [.write (gpio c .rw) Config.rwIdle, .delay (delayNs c.tProc)] ∧
      (runStmts (readCycle c ls bit) s).rxb = fillBits (ls.map bit) (lineLevels c (strobed c s) 0 ls) s.rxb := by
  obtain ⟨h1, h2, -⟩ := runStmts_sampleData c ls bit (strobed c s)
  rw [runStmts_readCycle]
  simp only [doDelay_trace, doDelay_rxb, performStmt, doWrite_trace, doWrite_rxb, h1, h2]
  simp [strobed]

theorem length_lineLevels (c : BusConfig) (s : State) (k : Nat) (ls : List (Fin 8)) :
    (lineLevels c s k ls).length = ls.length := by
  induction ls generalizing k with
  | nil => rfl
  | cons i ls ih => simp [lineLevels, ih]

/-- The bits of a byte filled from eight levels in place order. -/
theorem getLsbD_fillBits8 (v0 v1 v2 v3 v4 v5 v6 v7 : Level) (b : Byte) {i : Nat} (hi : i < 8) :
    (fillBits [0, 1, 2, 3, 4, 5, 6, 7] [v0, v1, v2, v3, v4, v5, v6, v7] b).getLsbD i =
      [v0, v1, v2, v3, v4, v5, v6, v7].getD i false := by
  simp only [fillBits, getLsbD_setBit _ _ _ _ hi]
  rcases (by omega : i = 0 ∨ i = 1 ∨ i = 2 ∨ i = 3 ∨ i = 4 ∨ i = 5 ∨ i = 6 ∨ i = 7) with
    rfl | rfl | rfl | rfl | rfl | rfl | rfl | rfl <;> rfl

/-- The bits of a byte filled from two nibbles, the high one first. -/
theorem getLsbD_fillBits4 (v0 v1 v2 v3 v4 v5 v6 v7 : Level) (b : Byte) {i : Nat} (hi : i < 8) :
    (fillBits [0, 1, 2, 3] [v4, v5, v6, v7] (fillBits [4, 5, 6, 7] [v0, v1, v2, v3] b)).getLsbD i =
      [v0, v1, v2, v3, v4, v5, v6, v7].getD ((i + 4) % 8) false := by
  simp only [fillBits, getLsbD_setBit _ _ _ _ hi]
  rcases (by omega : i = 0 ∨ i = 1 ∨ i = 2 ∨ i = 3 ∨ i = 4 ∨ i = 5 ∨ i = 6 ∨ i = 7) with
    rfl | rfl | rfl | rfl | rfl | rfl | rfl | rfl <;> rfl

/-- The states in which the first and the second read cycle of a byte start (R110). -/
def secondCycle (r : OpenRegs) (s : State) : State :=
  performStmt (.setPhase true)
    (runStmts (readCycle r.cfg [4, 5, 6, 7] fun i => i.val) (performStmt (.setPhase false) s))

/-- The levels the eight samples of a byte find, in the order taken (R109, R110). -/
def byteLevels (r : OpenRegs) (s : State) : List Level :=
  if r.w4 then
    lineLevels r.cfg (strobed r.cfg (performStmt (.setPhase false) s)) 0 [4, 5, 6, 7] ++
      lineLevels r.cfg (strobed r.cfg (secondCycle r s)) 0 [4, 5, 6, 7]
  else lineLevels r.cfg (strobed r.cfg s) 0 [0, 1, 2, 3, 4, 5, 6, 7]

theorem length_byteLevels : (byteLevels r s).length = 8 := by
  unfold byteLevels
  split <;> simp [length_lineLevels]

/-- In 4-bit mode a byte read is two read cycles (R110). -/
theorem runStmts_busRead4 (h : r.w4 = true) :
    runStmts (busRead r) s = runStmts (readCycle r.cfg [4, 5, 6, 7] fun i => i.val - 4) (secondCycle r s) := by
  have hn : NoCheck (readCycle r.cfg [4, 5, 6, 7] fun i => i.val) := by
    intro undo; simp [readCycle, sampleData]
  unfold busRead
  rw [if_pos h, List.cons_append, runStmts_cons (by simp), runStmts_append hn, runStmts_cons (by simp)]
  rfl

/-- A byte read: its events are the program's with `byteLevels` sampled, and `RXB` is made of them (R109, R110). -/
theorem rxb_busRead :
    ∃ es, (runStmts (busRead r) s).trace = s.trace ++ es ∧ es.map Event.microOp = microOps (busRead r) ∧
      samples es = byteLevels r s ∧
      ∀ i, i < 8 → (runStmts (busRead r) s).rxb.getLsbD i = (byteLevels r s).getD (bitPlace r.w4 i) false := by
  cases h : r.w4
  · have e : busRead r = readCycle r.cfg [0, 1, 2, 3, 4, 5, 6, 7] (fun i => i.val) := by simp [busRead, h]
    obtain ⟨h1, h2⟩ := readCycle_spec r.cfg [0, 1, 2, 3, 4, 5, 6, 7] (fun i => i.val) s
    obtain ⟨v0, v1, v2, v3, v4, v5, v6, v7, hv⟩ : ∃ v0 v1 v2 v3 v4 v5 v6 v7,
        lineLevels r.cfg (strobed r.cfg s) 0 [0, 1, 2, 3, 4, 5, 6, 7] = [v0, v1, v2, v3, v4, v5, v6, v7] :=
      ⟨_, _, _, _, _, _, _, _, rfl⟩
    rw [hv, List.append_assoc, List.append_assoc] at h1
    rw [hv] at h2
    refine ⟨_, (by rw [e, h1]), ?_, ?_, fun i hi => ?_⟩
    · simp [e, readCycle, sampleData, microOps, List.filterMap_cons, Stmt.microOp, Event.microOp, sampleEvents]
    · simp [samples, sampleEvents, byteLevels, h, hv]
    · rw [e, h2]
      simp only [byteLevels, h, hv, bitPlace]
      exact getLsbD_fillBits8 v0 v1 v2 v3 v4 v5 v6 v7 s.rxb hi
  · obtain ⟨h1, h2⟩ := readCycle_spec r.cfg [4, 5, 6, 7] (fun i => i.val) (performStmt (.setPhase false) s)
    obtain ⟨h3, h4⟩ := readCycle_spec r.cfg [4, 5, 6, 7] (fun i => i.val - 4) (secondCycle r s)
    obtain ⟨v0, v1, v2, v3, hv⟩ : ∃ v0 v1 v2 v3,
        lineLevels r.cfg (strobed r.cfg (performStmt (.setPhase false) s)) 0 [4, 5, 6, 7] = [v0, v1, v2, v3] :=
      ⟨_, _, _, _, rfl⟩
    obtain ⟨v4, v5, v6, v7, hv'⟩ : ∃ v4 v5 v6 v7,
        lineLevels r.cfg (strobed r.cfg (secondCycle r s)) 0 [4, 5, 6, 7] = [v4, v5, v6, v7] := ⟨_, _, _, _, rfl⟩
    have ht : (secondCycle r s).trace =
        (runStmts (readCycle r.cfg [4, 5, 6, 7] fun i => i.val) (performStmt (.setPhase false) s)).trace := rfl
    have hx : (secondCycle r s).rxb =
        (runStmts (readCycle r.cfg [4, 5, 6, 7] fun i => i.val) (performStmt (.setPhase false) s)).rxb := rfl
    rw [hv'] at h3 h4
    rw [hv] at h1 h2
    rw [ht, h1] at h3
    rw [hx, h2] at h4
    have hs : (performStmt (.setPhase false) s).trace = s.trace := rfl
    simp only [hs, List.append_assoc] at h3
    refine ⟨_, (by rw [runStmts_busRead4 r s h, h3]), ?_, ?_, fun i hi => ?_⟩
    · simp [busRead, h, readCycle, sampleData, microOps, List.filterMap_cons, Stmt.microOp, Event.microOp,
        sampleEvents]
    · simp [samples, sampleEvents, byteLevels, h, hv, hv']
    · rw [runStmts_busRead4 r s h, h4]
      simp only [byteLevels, h, hv, hv', bitPlace]
      exact getLsbD_fillBits4 v0 v1 v2 v3 v4 v5 v6 v7 s.rxb hi

/-! ### The frame around reads -/

theorem noCheck_readBytes (n : Nat) : NoCheck (readBytes r n) := by
  induction n with
  | zero => intro undo; simp [readBytes]
  | succ n ih => exact ((noCheck_busRead r).append (by intro undo; simp)).append ih

theorem noCheck_turnLines (m : PadMode) : NoCheck (turnLines r m) := by
  intro undo
  simp [turnLines]

theorem noCheck_readFrame (n : Word32) : NoCheck (readFrame r rsLevel n) := by
  unfold readFrame
  refine .append (.append (.append (.append ?_ ?_) ?_) ?_) ?_
  · intro undo; simp [turnLines]
  · intro undo; simp
  · exact noCheck_readBytes r _
  · exact noCheck_turnLines r _
  · intro undo; simp

/-- One more byte of a read frame (R111). -/
theorem runStmts_readBytes_succ (n : Nat) :
    runStmts (readBytes r (n + 1)) s =
      runStmts (readBytes r n) (performStmt .countDown (performStmt .takeByte (runStmts (busRead r) s))) := by
  show runStmts (busRead r ++ [.takeByte, .countDown] ++ readBytes r n) s = _
  rw [runStmts_append ((noCheck_busRead r).append (by intro undo; simp)), runStmts_append (noCheck_busRead r)]
  rfl

/-- The bytes of a read frame (R111): `n` more bytes read, each made of its eight samples in the trace. -/
theorem readBytes_spec (n : Nat) :
    ∃ es data, (runStmts (readBytes r n) s).trace = s.trace ++ es ∧
      es.map Event.microOp = (List.replicate n (microOps (busRead r))).flatten ∧
      (runStmts (readBytes r n) s).rdata = s.rdata ++ data ∧ data.length = n ∧ (samples es).length = 8 * n ∧
      ∀ k i, k < n → i < 8 →
        (data.getD k 0#8).getLsbD i = (samples es).getD (8 * k + bitPlace r.w4 i) false := by
  induction n generalizing s with
  | zero => exact ⟨[], [], by simp [readBytes], rfl, by simp [readBytes], rfl, rfl, by omega⟩
  | succ n ih =>
    obtain ⟨e0, h1, h2, h3, h4⟩ := rxb_busRead r s
    obtain ⟨es, data, k1, k2, k3, k4, k5, k6⟩ :=
      ih (performStmt .countDown (performStmt .takeByte (runStmts (busRead r) s)))
    rw [runStmts_readBytes_succ, k1, k3]
    refine ⟨e0 ++ es, (runStmts (busRead r) s).rxb :: data, ?_, ?_, ?_, ?_, ?_, ?_⟩
    · simp [performStmt, h1]
    · simp [h2, k2, List.replicate_succ]
    · simp [performStmt, (same_busRead r s).2.1]
    · simp [k4]
    · rw [samples, List.filterMap_append, List.length_append]
      change (samples e0).length + (samples es).length = _
      rw [h3, length_byteLevels, k5]
      omega
    · intro k i hk hi
      have e : samples (e0 ++ es) = byteLevels r s ++ samples es := by
        rw [← h3]; exact List.filterMap_append
      have hb : bitPlace r.w4 i < 8 := by unfold bitPlace; split <;> omega
      have hl := length_byteLevels r s
      rw [e]
      cases k with
      | zero =>
        rw [List.getD_cons_zero, h4 i hi, List.getD_append _ _ _ _ (by omega)]
        simp
      | succ k =>
        rw [List.getD_cons_succ, k6 k i (by omega) hi, List.getD_append_right _ _ _ _ (by omega)]
        congr 1
        omega

/-- `RXB` and the nibble phase after the bytes of a read frame (R23, R110). -/
theorem readBytes_regs (n : Nat) :
    ∃ data, (runStmts (readBytes r n) s).rdata = s.rdata ++ data ∧ data.length = n ∧
      (runStmts (readBytes r n) s).rxb = data.getLastD s.rxb ∧
      (runStmts (readBytes r n) s).h = if r.w4 ∧ data ≠ [] then true else s.h := by
  induction n generalizing s with
  | zero => exact ⟨[], by simp [readBytes]⟩
  | succ n ih =>
    obtain ⟨data, h1, h2, h3, h4⟩ := ih (performStmt .countDown (performStmt .takeByte (runStmts (busRead r) s)))
    rw [runStmts_readBytes_succ, h1, h3, h4]
    refine ⟨(runStmts (busRead r) s).rxb :: data, ?_, by simp [h2], ?_, ?_⟩
    · simp [performStmt, (same_busRead r s).2.1]
    · cases data <;> rfl
    · simp only [performStmt, phase_busRead]
      cases r.w4 <;> simp

/-- What the bytes of a read frame leave alone, and the ghosts (R111, R117). -/
theorem readBytes_same (n : Nat) :
    (runStmts (readBytes r n) s).txb = s.txb ∧ (runStmts (readBytes r n) s).dir = s.dir ∧
      (runStmts (readBytes r n) s).nEw = s.nEw ∧ (runStmts (readBytes r n) s).draws = s.draws + 8 * n ∧
      (runStmts (readBytes r n) s).nRw = s.nRw + cyclesPerByte r * n ∧
      (runStmts (readBytes r n) s).cnt = s.cnt - BitVec.ofNat 32 n := by
  induction n generalizing s with
  | zero => simp [readBytes]
  | succ n ih =>
    rw [runStmts_readBytes_succ]
    obtain ⟨h1, -, h3, h4, h5⟩ := same_busRead r s
    obtain ⟨g1, g2⟩ := ghosts_busRead r s
    obtain ⟨k1, k2, k3, k4, k5, k6⟩ := ih (performStmt .countDown (performStmt .takeByte (runStmts (busRead r) s)))
    rw [k1, k2, k3, k4, k5, k6]
    simp only [performStmt, h1, h3, h4, h5, g1, g2]
    refine ⟨trivial, trivial, trivial, by omega, by rw [Nat.mul_succ]; omega, ?_⟩
    rw [BitVec.ofNat_add, BitVec.add_comm, BitVec.sub_sub]
    rfl

/-- A read frame in its three parts (R111): the bus turned around, the bytes, the bus turned back. -/
theorem runStmts_readFrame (n : Word32) :
    runStmts (readFrame r rsLevel n) s =
      performStmt (.setDir .out) (runStmts (turnLines r .out) (runStmts (readBytes r n.toNat)
        (performStmt .clearData (performStmt (.loadCnt n) (performStmt (.setDir .inp)
          (runStmts (turnLines r .inp) (doWrite (gpio r.cfg .rs) rsLevel s))))))) := by
  have h1 : NoCheck (.op (.write (gpio r.cfg .rs) rsLevel) :: turnLines r .inp) := by
    intro undo; simp [turnLines]
  have h2 : NoCheck [.setDir .inp, .loadCnt n, .clearData] := by intro undo; simp
  unfold readFrame
  rw [runStmts_append (((h1.append h2).append (noCheck_readBytes r _)).append (noCheck_turnLines r _)),
    runStmts_append ((h1.append h2).append (noCheck_readBytes r _)), runStmts_append (h1.append h2),
    runStmts_append h1]
  rfl

/-- Turning the lines changes modes and nothing else. -/
theorem turnLines_same {α : Type} (f : State → α) (m : PadMode) (hm : ∀ p s, f (doMode p m s) = f s) :
    f (runStmts (turnLines r m) s) = f s := by
  refine runStmts_same f (noCheck_turnLines r m) (fun x hx s => ?_) s
  simp only [turnLines, List.mem_map] at hx
  obtain ⟨l, -, rfl⟩ := hx
  exact hm _ s

theorem trace_turnLines (m : PadMode) :
    (runStmts (turnLines r m) s).trace = s.trace ++ (dataLines r.w4).map fun l => .mode (gpio r.cfg l) m := by
  unfold turnLines
  induction dataLines r.w4 generalizing s with
  | nil => simp
  | cons l ls ih => rw [List.map_cons, runStmts_op, ih]; simp [perform]

end Sys2Proof.Laws
end

