-- ==== Sys2Proof/Tests/Slice0.lean ====
section
/-! SUPPORT. Tests whose expected results are the spec's own vectors (spec/95_test_vectors.md), and for each obligation
with hypotheses a witness that meets them. -/

namespace Sys2Proof.Tests

open Sys2Proof.Machine Sys2Proof.Claims

/-! ### Configurations and states -/

/-- Configuration A of spec/95 section 2: 8-bit, readable. -/
def cfgA : BusConfig where
  d0 := 4
  d1 := 5
  d2 := 6
  d3 := 7
  d4 := 8
  d5 := 9
  d6 := 10
  d7 := 11
  rs := 17
  ew := 18
  rw := 27
  tag := 0
  tSu := 20
  tClk := 80
  tRd := 150
  tProc := 10
  tH := 40

/-- Configuration C of spec/95 section 2: 4-bit, readable. -/
def cfgC : BusConfig :=
  { cfgA with d0 := 0xFF, d1 := 0xFF, d2 := 0xFF, d3 := 0xFF, d4 := 22, d5 := 23, d6 := 24, d7 := 25 }

/-- Configuration B of spec/95 section 2: 4-bit, write-only. -/
def cfgB : BusConfig := { cfgC with rw := 0xFF }

/-- The latch OPEN leaves on a line (R87). -/
def latchOf : Line → Level
  | .d _ => false
  | .rs => Config.rsDataLevel
  | .ew => Config.ewIdle
  | .rw => Config.rwIdle

/-- The state after OPEN (R86 to R88), with the given host bytes to come. -/
def openState (c : BusConfig) (cmds : List Byte := []) : State :=
  (configLines c).foldl (fun s l => s.setPad (gpio c l) { claimed := true, mode := .out, latch := latchOf l })
    { State.reset with life := .opened (openRegs c), owned := configPins c, commands := cmds }

/-- The reset state with host bytes to come. -/
def resetWith (cmds : List Byte) : State := { State.reset with commands := cmds }

/-- The reset state with one pin held by another owner. -/
def heldState (p : Nat) : State := State.reset.setPad p { Pad.launch with claimed := true }

/-- The fixture of spec/95 section 3, built for `c`, with nothing in it. -/
def fixtureFor (c : BusConfig) : LoopBack where
  wiring := c
  w4 := width4 c
  fifo := []
  cmds := []
  wn := none
  rn := none
  drv := none

/-- The state after OPEN with the fixture on the bus. -/
def loopState (c : BusConfig) : State := { openState c with dev := .loopBack (fixtureFor c) }

/-- The 33-byte packet of vector O1. -/
def packetA : List Byte :=
  [0x01, 0x04, 0x05, 0x06, 0x07, 0x08, 0x09, 0x0A, 0x0B, 0x11, 0x12, 0x1B, 0x00, 0x14, 0x00, 0x00, 0x00, 0x50, 0x00, 0x00,
   0x00, 0x96, 0x00, 0x00, 0x00, 0x0A, 0x00, 0x00, 0x00, 0x28, 0x00, 0x00, 0x00]

/-- The packet of vector O7: A with a bad tag. -/
def packetBadTag : List Byte :=
  [0x01, 0x04, 0x05, 0x06, 0x07, 0x08, 0x09, 0x0A, 0x0B, 0x11, 0x12, 0x1B, 0x01, 0x14, 0x00, 0x00, 0x00, 0x50, 0x00, 0x00,
   0x00, 0x96, 0x00, 0x00, 0x00, 0x0A, 0x00, 0x00, 0x00, 0x28, 0x00, 0x00, 0x00]

/-- Whether a step answers a next state with property `P`. -/
def after (o : Host.Outcome State Fault Refusal) (P : State → Prop) : Prop := ∃ t, o = .next t ∧ P t

/-! ### Well-formedness -/

theorem test_wf_refuses_block_of_two_to_the_32 : (Instr.wrb (List.replicate (2 ^ 32) 0#8)).wf = false := by
  simp only [Instr.wf, List.length_replicate, lt_irrefl, decide_false]

theorem test_wf_accepts_empty_block : (Instr.wrb []).wf = true := rfl

/-! ### Decoding, from the encodings of R57 to R62 -/

theorem test_decode_open : decode packetA = .command (.openBus cfgA) [] := by decide
theorem test_decode_wrc : decode [0x02, 0xC2] = .command (.wrc 0xC2) [] := by decide
theorem test_decode_wrb :
    decode [0x03, 0x02, 0x00, 0x00, 0x00, 0x07, 0x06, 0x02, 0xC2] = .command (.wrb [0x07, 0x06]) [0x02, 0xC2] := by
  decide
theorem test_decode_rdb : decode [0x04, 0x00, 0x01, 0x00, 0x00] = .command (.rdb 256) [] := by decide
theorem test_decode_rdr : decode [0x05] = .command .rdr [] := by decide
theorem test_decode_close : decode [0x06, 0x02] = .command .closeBus [0x02] := by decide
theorem test_decode_reserved :
    decode [0x00] = .badOpcode 0x00 [] ∧ decode [0x07] = .badOpcode 0x07 [] ∧
      decode [0xFF, 0x00, 0x05] = .badOpcode 0xFF [0x00, 0x05] := by
  decide
theorem test_decode_cut_short : decode [0x04, 0x01, 0x00] = .incomplete ∧ decode [] = .incomplete := by decide
theorem test_encode_open : encode (.openBus cfgA) = packetA := by decide
theorem test_table_word : decodeTableWord 16 0xC202 = some (.wrc 0xC2) ∧ decodeTableWord 8 0x07 = none := by decide
theorem test_table_rows :
    decodeTableWord 8 0x02 = some (.wrc 0) ∧ decodeTableWord 8 0x03 = some (.wrb []) ∧
      decodeTableWord 8 0x04 = some (.rdb 0) ∧ decodeTableWord 8 0x05 = some .rdr ∧
      decodeTableWord 8 0x06 = some .closeBus ∧ (decodeTableWord 8 0x01).isSome = true := by
  decide

/-! ### One step, from the vectors of spec/95 -/

/-- O1: the trace of OPEN. -/
theorem test_open_trace :
    after (exec (.openBus cfgA) State.reset) fun t => t.trace =
      [.claim 4 true, .claim 5 true, .claim 6 true, .claim 7 true, .claim 8 true, .claim 9 true, .claim 10 true,
       .claim 11 true, .claim 17 true, .claim 18 true, .claim 27 true,
       .write 4 false, .mode 4 .out, .write 5 false, .mode 5 .out, .write 6 false, .mode 6 .out, .write 7 false,
       .mode 7 .out, .write 8 false, .mode 8 .out, .write 9 false, .mode 9 .out, .write 10 false, .mode 10 .out,
       .write 11 false, .mode 11 .out, .write 17 Config.rsDataLevel, .mode 17 .out, .write 18 Config.ewIdle,
       .mode 18 .out, .write 27 Config.rwIdle, .mode 27 .out] :=
  ⟨_, rfl, rfl⟩

/-- O24: a refused claim. -/
theorem test_open_refused :
    after (exec (.openBus cfgA) (heldState 8)) fun t =>
      t.trace = [.claim 4 true, .claim 5 true, .claim 6 true, .claim 7 true, .claim 8 false, .release 7, .release 6,
        .release 5, .release 4] ∧ t.responses = [0x01] :=
  ⟨_, rfl, rfl, rfl⟩

/-- W2: the trace of WRC in 4-bit mode. -/
theorem test_wrc_trace :
    after (exec (.wrc 0xC2) (openState cfgB)) fun t => t.trace =
      [.write 17 Config.rsCmdLevel, .write 22 false, .write 23 false, .write 24 true, .write 25 true, .delay 20,
       .write 18 Config.ewActive, .delay 80, .write 18 Config.ewIdle, .delay 40, .write 22 false, .write 23 true,
       .write 24 false, .write 25 false, .delay 20, .write 18 Config.ewActive, .delay 80, .write 18 Config.ewIdle,
       .delay 40] :=
  ⟨_, rfl, rfl⟩

/-- W10. -/
theorem test_wrc_closed :
    after (exec (.wrc 0xC2) State.reset) fun t => t.responses = [0x03] ∧ t.trace = [] ∧ t.life = .closed :=
  ⟨_, rfl, by decide⟩

/-- W6: the trace of WRB in 8-bit mode. -/
theorem test_wrb_trace :
    after (exec (.wrb [0x34, 0x12]) (openState cfgA)) fun t => t.trace =
      [.write 17 Config.rsDataLevel, .write 4 false, .write 5 false, .write 6 true, .write 7 false, .write 8 true,
       .write 9 true, .write 10 false, .write 11 false, .delay 20, .write 18 Config.ewActive, .delay 80,
       .write 18 Config.ewIdle, .delay 40, .write 17 Config.rsDataLevel, .write 4 false, .write 5 true, .write 6 false,
       .write 7 false, .write 8 true, .write 9 false, .write 10 false, .write 11 false, .delay 20,
       .write 18 Config.ewActive, .delay 80, .write 18 Config.ewIdle, .delay 40] :=
  ⟨_, rfl, rfl⟩

/-- W9: pulses and time of three bytes in 4-bit mode. -/
theorem test_wrb_ghosts :
    after (exec (.wrb [0x01, 0x02, 0x03]) (openState cfgB)) fun t => t.nEw = 6 ∧ t.tmin = 840 ∧ t.responses = [0x00] :=
  ⟨_, rfl, by decide⟩

/-- RD1: the micro-operations of RDB in 8-bit mode. -/
theorem test_rdb_micro_operations :
    after (exec (.rdb 2) (openState cfgA)) fun t => t.trace.map Event.microOp =
      [.write 17 Config.rsDataLevel, .mode 4 .inp, .mode 5 .inp, .mode 6 .inp, .mode 7 .inp, .mode 8 .inp, .mode 9 .inp,
       .mode 10 .inp, .mode 11 .inp, .delay 20, .write 27 Config.rwActive, .delay 150, .sample 4, .sample 5, .sample 6,
       .sample 7, .sample 8, .sample 9, .sample 10, .sample 11, .write 27 Config.rwIdle, .delay 10, .delay 20,
       .write 27 Config.rwActive, .delay 150, .sample 4, .sample 5, .sample 6, .sample 7, .sample 8, .sample 9,
       .sample 10, .sample 11, .write 27 Config.rwIdle, .delay 10, .mode 4 .out, .mode 5 .out, .mode 6 .out,
       .mode 7 .out, .mode 8 .out, .mode 9 .out, .mode 10 .out, .mode 11 .out] :=
  ⟨_, rfl, rfl⟩

/-- RD7 and RD8. -/
theorem test_rdb_refused :
    after (exec (.rdb 3) (openState cfgB)) (fun t => t.responses = [0x02] ∧ t.trace = []) ∧
      after (exec (.rdb 2) State.reset) (fun t => t.responses = [0x03] ∧ t.trace = []) :=
  ⟨⟨_, rfl, by decide⟩, ⟨_, rfl, by decide⟩⟩

/-- RD6: the micro-operations of RDR in 4-bit mode. -/
theorem test_rdr_micro_operations :
    after (exec .rdr (openState cfgC)) fun t => t.trace.map Event.microOp =
      [.write 17 Config.rsCmdLevel, .mode 22 .inp, .mode 23 .inp, .mode 24 .inp, .mode 25 .inp, .delay 20,
       .write 27 Config.rwActive, .delay 150, .sample 22, .sample 23, .sample 24, .sample 25, .write 27 Config.rwIdle,
       .delay 10, .delay 20, .write 27 Config.rwActive, .delay 150, .sample 22, .sample 23, .sample 24, .sample 25,
       .write 27 Config.rwIdle, .delay 10, .mode 22 .out, .mode 23 .out, .mode 24 .out, .mode 25 .out] :=
  ⟨_, rfl, rfl⟩

/-- X1: CLOSE. -/
theorem test_close_trace :
    after (exec .closeBus (openState cfgA)) fun t =>
      t.trace = [.release 27, .release 18, .release 17, .release 11, .release 10, .release 9, .release 8, .release 7,
        .release 6, .release 5, .release 4] ∧ t.responses = [0x00] ∧ t.life = .closed :=
  ⟨_, rfl, by decide⟩

/-- E3: three packets, three responses; the first of them here. -/
theorem test_reserved_opcode :
    after (step (resetWith [0xFF, 0x00, 0x05])) fun t => t.responses = [0x04] ∧ t.commands = [0x00, 0x05] :=
  ⟨_, rfl, by decide⟩

/-- S3: the façade's aligned base, with and without warning. -/
theorem test_set_cg_offset (cs : ChipState) :
    (setCgOffset 0x1003 cs).chip.cgBase = 0x1000 ∧ (setCgOffset 0x1003 cs).warning = true ∧
      (setCgOffset 0x1800 cs).chip.cgBase = 0x1800 ∧ (setCgOffset 0x1800 cs).warning = false :=
  ⟨rfl, rfl, rfl, rfl⟩

/-! ### Witnesses -/

theorem pad_openState_claimed :
    (∀ p ∈ configPins cfgA, ((openState cfgA).pad p).claimed = true ∧ ((openState cfgA).pad p).mode = .out) ∧
      (∀ p ∈ configPins cfgB, ((openState cfgB).pad p).claimed = true ∧ ((openState cfgB).pad p).mode = .out) ∧
      (∀ p ∈ configPins cfgC, ((openState cfgC).pad p).claimed = true ∧ ((openState cfgC).pad p).mode = .out) := by
  decide

/-- `OpenInv` at configuration A: 8-bit, readable. -/
theorem openInv_A : OpenInv (openRegs cfgA) (openState cfgA) :=
  ⟨by decide, rfl, rfl, rfl, fun p h => (pad_openState_claimed.1 p h).1, fun p h => (pad_openState_claimed.1 p h).2, rfl,
   fun _ => rfl, rfl⟩

/-- `OpenInv` at configuration B: 4-bit, write-only. -/
theorem openInv_B : OpenInv (openRegs cfgB) (openState cfgB) :=
  ⟨by decide, rfl, rfl, rfl, fun p h => (pad_openState_claimed.2.1 p h).1, fun p h => (pad_openState_claimed.2.1 p h).2,
   rfl, fun h => absurd h (by decide), rfl⟩

/-- `OpenInv` at configuration C: 4-bit, readable. -/
theorem openInv_C : OpenInv (openRegs cfgC) (openState cfgC) :=
  ⟨by decide, rfl, rfl, rfl, fun p h => (pad_openState_claimed.2.2 p h).1, fun p h => (pad_openState_claimed.2.2 p h).2,
   rfl, fun _ => rfl, rfl⟩

theorem witness_DecodeReadsBackEveryCommand :
    (Instr.openBus cfgA).wf = true ∧ (Instr.wrc 0xFF).wf = true ∧ (Instr.wrb [0x34, 0x12]).wf = true ∧
      (Instr.rdb 0xFFFFFFFF).wf = true ∧ Instr.rdr.wf = true ∧ Instr.closeBus.wf = true := by
  decide

theorem witness_DecodedPacketIsItsEncoding :
    decode [0x03, 0x01, 0x00, 0x00, 0x00, 0xA5, 0x05] = .command (.wrb [0xA5]) [0x05] := by decide

theorem witness_ReservedOpcodeAnswersBadOpcode :
    (Idle (resetWith [0x00]) ∧ (resetWith [0x00]).commands = 0x00#8 :: []) ∧
      (Idle (resetWith [0x07, 0x05]) ∧ 7 ≤ (0x07#8).toNat ∧ (resetWith [0x07, 0x05]).commands = 0x07#8 :: [0x05]) ∧
      (Idle (resetWith [0xFF]) ∧ 7 ≤ (0xFF#8).toNat ∧ (resetWith [0xFF]).commands = 0xFF#8 :: []) :=
  ⟨⟨⟨rfl, rfl⟩, rfl⟩, ⟨⟨rfl, rfl⟩, by decide, rfl⟩, ⟨rfl, rfl⟩, by decide, rfl⟩

theorem witness_PacketCutShortWaits :
    Idle (resetWith [0x04, 0x01, 0x00]) ∧ (Instr.rdb 1).wf = true ∧ 3 < (encode (.rdb 1)).length ∧
      (resetWith [0x04, 0x01, 0x00]).commands = (encode (.rdb 1)).take 3 :=
  ⟨⟨rfl, rfl⟩, by decide, by decide, by decide⟩

theorem witness_StepExecutesTheDecodedCommand :
    Idle (openState cfgA [0x02, 0xC2, 0x06]) ∧
      decode (openState cfgA [0x02, 0xC2, 0x06]).commands = .command (.wrc 0xC2) [0x06] :=
  ⟨⟨rfl, rfl⟩, by decide⟩

theorem witness_FetchWordRunsItsCommand : decodeTableWord 40 0x0000000204 = some (.rdb 2) := by decide

theorem witness_ConfigValidityIsV1ToV6 :
    State.reset.life = .closed ∧ valid { cfgA with tag := 0x01 } = false ∧ valid { cfgA with tSu := 0x80000000 } = false ∧
      valid { cfgA with ew := 28 } = false ∧ valid { cfgA with d7 := 0xFF } = false ∧
      valid { cfgA with d0 := 99 } = false ∧ valid { cfgA with rw := 4 } = false := by
  decide

theorem witness_OpenLatchesWidthAndReadability :
    (State.reset.life = .closed ∧ valid cfgA = true ∧
      after (exec (.openBus cfgA) State.reset) fun t => t.status = 0x00#8) ∧
    (valid cfgB = true ∧ after (exec (.openBus cfgB) State.reset) fun t => t.status = 0x00#8) ∧
    (valid cfgC = true ∧ after (exec (.openBus cfgC) State.reset) fun t => t.status = 0x00#8) :=
  ⟨⟨rfl, by decide, _, rfl, by decide⟩, ⟨by decide, _, rfl, by decide⟩, by decide, _, rfl, by decide⟩

theorem witness_OpenClaimsInitialisesAndCommits :
    State.reset.life = .closed ∧ (valid cfgA = true ∧ ∀ p ∈ configPins cfgA, (State.reset.pad p).claimed = false) ∧
      (valid cfgB = true ∧ ∀ p ∈ configPins cfgB, (State.reset.pad p).claimed = false) ∧
      (valid cfgC = true ∧ ∀ p ∈ configPins cfgC, (State.reset.pad p).claimed = false) := by
  decide

theorem witness_OpenUndoesARefusedClaim_first :
    (heldState 4).life = .closed ∧ valid cfgA = true ∧
      configPins cfgA = [] ++ 4 :: [5, 6, 7, 8, 9, 10, 11, 17, 18, 27] ∧
      (∀ q ∈ ([] : List Nat), ((heldState 4).pad q).claimed = false) ∧ ((heldState 4).pad 4).claimed = true := by
  decide

theorem witness_OpenUndoesARefusedClaim_last :
    (heldState 27).life = .closed ∧ valid cfgA = true ∧
      configPins cfgA = [4, 5, 6, 7, 8, 9, 10, 11, 17, 18] ++ 27 :: [] ∧
      (∀ q ∈ [4, 5, 6, 7, 8, 9, 10, 11, 17, 18], ((heldState 27).pad q).claimed = false) ∧
      ((heldState 27).pad 27).claimed = true := by
  decide

theorem witness_OpenWhileOpenIsHandleInvalid :
    Idle (openState cfgB packetA) ∧ (openState cfgB packetA).life = .opened (openRegs cfgB) ∧
      (openState cfgB packetA).commands = encode (.openBus cfgA) ++ [] :=
  ⟨⟨rfl, rfl⟩, rfl, by decide⟩

theorem witness_FailedOpenChangesNothing :
    (after (exec (.openBus { cfgA with tag := 0x01 }) State.reset) fun t => t.status ≠ 0x00#8) ∧
      (after (exec (.openBus cfgA) (heldState 27)) fun t => t.status ≠ 0x00#8) ∧
      (after (exec (.openBus cfgA) (openState cfgB)) fun t => t.status ≠ 0x00#8) :=
  ⟨⟨_, rfl, by decide⟩, ⟨_, rfl, by decide⟩, _, rfl, by decide⟩

/-- The hypothesis of `CloseReleasesInReverse`, `WrcWritesOneCommandByte`, `WrbWritesEveryByteInOrder`,
`EmptyWrbTouchesNothing`, `WrbSplitsWithoutFraming`, `WritesSpendSetupClockHold`, `ProgramIsFixedAtAcceptance`,
`TransfersLeaveTheNibblePhase` and `CloseKeepsTheDataPathRegisters`. -/
theorem witness_opened :
    (openState cfgA).life = .opened (openRegs cfgA) ∧ (openState cfgB).life = .opened (openRegs cfgB) ∧
      (openState cfgC).life = .opened (openRegs cfgC) := by
  decide

/-- The hypothesis of `CloseWhileClosedSetsTheFault`, `TransfersWhileClosedAreHandleInvalid` and the closed clauses of
the write and read statements. -/
theorem witness_closed : State.reset.life = .closed := rfl

theorem witness_CloseReleasesInReverse :
    (openState cfgA).life = .opened (openRegs cfgA) ∧
      (27 ∈ pins cfgA (openRegs cfgA).w4 (openRegs cfgA).canRead ∧ 27 < 28) ∧
      0 ∉ pins cfgA (openRegs cfgA).w4 (openRegs cfgA).canRead := by
  decide

theorem witness_StickyFaultStopsEveryStep : ({ State.reset with fault := true } : State).fault = true := rfl

theorem witness_OnlyClosedCloseSetsTheFault :
    (resetWith [0x06]).fault = false ∧ after (step (resetWith [0x06])) fun t => t.fault = true :=
  ⟨rfl, _, rfl, rfl⟩

/-- The hypotheses of `WrcLeavesTheByteOnTheLines` and `WrbLeavesTheLastByteOnTheLines`, in either width. -/
theorem witness_WrcLeavesTheByteOnTheLines :
    (OpenInv (openRegs cfgA) (openState cfgA) ∧ (openRegs cfgA).w4 = false) ∧
      (OpenInv (openRegs cfgB) (openState cfgB) ∧ (openRegs cfgB).w4 = true) :=
  ⟨⟨openInv_A, rfl⟩, openInv_B, rfl⟩

theorem witness_WritesPulseOncePerCycle :
    ((openState cfgA).life = .opened (openRegs cfgA) ∧ OpenInv (openRegs cfgA) (openState cfgA)) ∧
      ((openState cfgB).life = .opened (openRegs cfgB) ∧ OpenInv (openRegs cfgB) (openState cfgB)) ∧
      (State.reset.life = .closed ∧ ((∃ b, Instr.wrc 0xC2 = .wrc b) ∨ ∃ bytes, Instr.wrc 0xC2 = .wrb bytes)) :=
  ⟨⟨rfl, openInv_A⟩, ⟨rfl, openInv_B⟩, rfl, .inl ⟨_, rfl⟩⟩

/-- The hypotheses of `RdbReadsEveryByteInOrder`, `RdrReadsTheStatusByte`, `ReadsReturnWhatTheDeviceDrives`,
`ReadsRestoreTheBus`, `EmptyRdbPerformsTheFrameOnly`, `ReadsPulseOncePerCycle`, `ReadsSpendSetupTurnaroundProcessing`,
`ProgramIsFixedAtAcceptance`, `TransfersLeaveTheNibblePhase`, `FacadeReadReturnsOneByte` and `FacadeBulkReadReturnsItsBytes` on a readable bus, in either
width. -/
theorem witness_readable :
    ((openState cfgA).life = .opened (openRegs cfgA) ∧ (openRegs cfgA).canRead = true ∧
      OpenInv (openRegs cfgA) (openState cfgA) ∧ (openState cfgA).dev = .oracle) ∧
    ((openState cfgC).life = .opened (openRegs cfgC) ∧ (openRegs cfgC).canRead = true ∧
      OpenInv (openRegs cfgC) (openState cfgC) ∧ (openState cfgC).dev = .oracle) :=
  ⟨⟨rfl, by decide, openInv_A, rfl⟩, rfl, by decide, openInv_C, rfl⟩

/-- The indices at which `RdbReadsEveryByteInOrder` and `ReadsReturnWhatTheDeviceDrives` speak, for a count of 2. -/
theorem witness_read_indices : 0 < (2#32).toNat ∧ 1 < (2#32).toNat ∧ 7 < 8 ∧ 15 < 8 * (2#32).toNat := by decide

/-- Also the write-only clauses of `RdbReadsEveryByteInOrder`, `RdrReadsTheStatusByte`, `FacadeReadReturnsOneByte` and
`FacadeBulkReadReturnsItsBytes`. -/
theorem witness_ReadsOnAWriteOnlyBusTouchNothing :
    (openState cfgB).life = .opened (openRegs cfgB) ∧ (openRegs cfgB).canRead = false := by decide

theorem witness_ReadsPulseOncePerCycle :
    (State.reset.life = .closed ∧ (Instr.rdr = .rdr ∨ ∃ count, Instr.rdr = .rdb count)) ∧
      ((∃ r, (openState cfgB).life = .opened r ∧ r.canRead = false) ∧
        (Instr.rdb 3 = .rdr ∨ ∃ count, Instr.rdb 3 = .rdb count)) :=
  ⟨⟨rfl, .inl rfl⟩, ⟨_, rfl, by decide⟩, .inr ⟨_, rfl⟩⟩

/-- The invariant's two forms, each with a step from it: CLOSED before OPEN, OPEN before WRC. -/
theorem witness_EveryStepKeepsTheInvariant :
    (Inv (resetWith packetA) ∧ after (step (resetWith packetA)) fun t => t.status = 0x00#8) ∧
      (Inv (openState cfgA) ∧ ∃ s, Inv s ∧ s.life = .opened (openRegs cfgA) ∧
        after (step s) fun t => t.status = 0x00#8) :=
  ⟨⟨.inr ⟨rfl, rfl⟩, _, rfl, by decide⟩, .inr ⟨rfl, openInv_A⟩,
   { openState cfgA with commands := [0x02, 0xC2] },
   .inr ⟨rfl, ⟨openInv_A.1, rfl, rfl, rfl, openInv_A.5, openInv_A.6, rfl, fun _ => rfl, rfl⟩⟩, rfl, _, rfl, by decide⟩

theorem witness_LoopBackReturnsWhatWasWritten :
    (OpenInv (openRegs cfgA) (loopState cfgA) ∧ (loopState cfgA).life = .opened (openRegs cfgA) ∧
      (openRegs cfgA).canRead = true ∧ (loopState cfgA).dev = .loopBack (fixtureFor cfgA) ∧
      (fixtureFor cfgA).wiring = (openRegs cfgA).cfg ∧ (fixtureFor cfgA).w4 = (openRegs cfgA).w4) ∧
    (OpenInv (openRegs cfgC) (loopState cfgC) ∧ (loopState cfgC).life = .opened (openRegs cfgC) ∧
      (openRegs cfgC).canRead = true ∧ (loopState cfgC).dev = .loopBack (fixtureFor cfgC) ∧
      (fixtureFor cfgC).wiring = (openRegs cfgC).cfg ∧ (fixtureFor cfgC).w4 = (openRegs cfgC).w4) ∧
    (fixtureFor cfgA).fifo = [] ∧ (fixtureFor cfgA).wn = none ∧ (fixtureFor cfgA).rn = none ∧
    (fixtureFor cfgC).fifo = [] ∧ (fixtureFor cfgC).wn = none ∧ (fixtureFor cfgC).rn = none ∧
    [0xDE#8, 0xAD#8, 0xBE#8].length < 2 ^ 32 :=
  ⟨⟨⟨openInv_A.1, rfl, rfl, rfl, openInv_A.5, openInv_A.6, rfl, fun _ => rfl, rfl⟩, rfl, by decide, rfl, rfl, rfl⟩,
   ⟨⟨openInv_C.1, rfl, rfl, rfl, openInv_C.5, openInv_C.6, rfl, fun _ => rfl, rfl⟩, rfl, by decide, rfl, rfl, rfl⟩,
   rfl, rfl, rfl, rfl, rfl, rfl, by decide⟩

/-- The clauses of `RunIsItsMicroSteps` that accept a command. -/
theorem witness_RunIsItsMicroSteps_accept :
    (State.reset.fault = false ∧ State.reset.life = .closed ∧ valid cfgA = true) ∧
      ((openState cfgC).fault = false ∧ (openState cfgC).life = .opened (openRegs cfgC) ∧
        (openRegs cfgC).canRead = true) := by
  decide

theorem witness_RunIsItsMicroSteps :
    (accept (.wrc 0xC2) (wrcProg (openRegs cfgA) 0xC2) (openState cfgA)).fault = false ∧
      (accept (.wrc 0xC2) (wrcProg (openRegs cfgA) 0xC2) (openState cfgA)).seq =
        .run (.wrc 0xC2) 0 (wrcProg (openRegs cfgA) 0xC2) :=
  ⟨rfl, rfl⟩

theorem witness_ConfigIsFrozenWhileOpen :
    Idle (openState cfgA [0x02, 0xC2]) ∧ (openState cfgA [0x02, 0xC2]).life = .opened (openRegs cfgA) ∧
      after (step (openState cfgA [0x02, 0xC2])) fun t => t.status = 0x00#8 :=
  ⟨⟨rfl, rfl⟩, rfl, _, rfl, by decide⟩

theorem witness_ConfigIsFrozenWhileOpen_close :
    Idle (openState cfgA [0x06]) ∧ (openState cfgA [0x06]).life = .opened (openRegs cfgA) ∧
      (after (step (openState cfgA [0x06])) fun t => t.life = .closed) ∧
      decode (openState cfgA [0x06]).commands = .command .closeBus [] :=
  ⟨⟨rfl, rfl⟩, rfl, ⟨_, rfl, by decide⟩, by decide⟩

theorem witness_TransfersUseOwnedPinsOnly :
    OpenInv (openRegs cfgC) (openState cfgC) ∧ (openState cfgC).life = .opened (openRegs cfgC) ∧
      Instr.rdb 1 ≠ .closeBus ∧ after (exec (.rdb 1) (openState cfgC)) fun t => t.status = 0x00#8 :=
  ⟨openInv_C, rfl, by decide, _, rfl, by decide⟩

/-- One failing command for each status code, and a reserved opcode. -/
theorem witness_FailingCommandsTouchNoLine :
    (after (exec (.openBus cfgA) (heldState 8)) fun t => t.fault = false ∧ t.status = 0x01#8) ∧
    (after (exec (.openBus { cfgA with tag := 0x01 }) State.reset) fun t => t.fault = false ∧ t.status = 0x01#8) ∧
    (after (exec .rdr (openState cfgB)) fun t => t.fault = false ∧ t.status = 0x02#8) ∧
    (after (exec (.wrc 0xC2) State.reset) fun t => t.fault = false ∧ t.status = 0x03#8) ∧
    (Idle (resetWith [0x07]) ∧ decode (resetWith [0x07]).commands = .badOpcode 0x07 []) :=
  ⟨⟨_, rfl, by decide⟩, ⟨_, rfl, by decide⟩, ⟨_, rfl, by decide⟩, ⟨_, rfl, by decide⟩, ⟨rfl, rfl⟩, by decide⟩

/-- A successful command with data, one without, and one that fails; the reserved opcode is in
`witness_FailingCommandsTouchNoLine`. -/
theorem witness_OneResponsePacketPerCommand :
    (Idle (openState cfgA [0x05]) ∧ decode (openState cfgA [0x05]).commands = .command .rdr [] ∧
      after (step (openState cfgA [0x05])) fun t => t.fault = false ∧ t.status = 0x00#8) ∧
    (Idle (openState cfgA [0x06]) ∧ decode (openState cfgA [0x06]).commands = .command .closeBus [] ∧
      after (step (openState cfgA [0x06])) fun t => t.fault = false ∧ t.status = 0x00#8) ∧
    (Idle (resetWith [0x05]) ∧ decode (resetWith [0x05]).commands = .command .rdr [] ∧
      after (step (resetWith [0x05])) fun t => t.fault = false ∧ t.status = 0x03#8) :=
  ⟨⟨⟨rfl, rfl⟩, by decide, _, rfl, by decide⟩, ⟨⟨rfl, rfl⟩, by decide, _, rfl, by decide⟩, ⟨rfl, rfl⟩, by decide, _,
   rfl, by decide⟩

/-- One state for each test of R151, in order. -/
theorem witness_ErrorsAreTestedInOrder :
    (Idle (resetWith [0x07]) ∧ decode (resetWith [0x07]).commands = .badOpcode 0x07 []) ∧
    (Idle (resetWith [0x05]) ∧ decode (resetWith [0x05]).commands = .command .rdr [] ∧
      (resetWith [0x05]).life = .closed ∧ (∀ c, Instr.rdr ≠ .openBus c) ∧ Instr.rdr ≠ .closeBus) ∧
    (Idle (openState cfgA packetBadTag) ∧
      decode (openState cfgA packetBadTag).commands = .command (.openBus { cfgA with tag := 0x01 }) [] ∧
      (openState cfgA packetBadTag).life = .opened (openRegs cfgA)) ∧
    (Idle (openState cfgB [0x05]) ∧ decode (openState cfgB [0x05]).commands = .command .rdr [] ∧
      (openState cfgB [0x05]).life = .opened (openRegs cfgB) ∧ (openRegs cfgB).canRead = false) ∧
    (Idle (resetWith packetBadTag) ∧
      decode (resetWith packetBadTag).commands = .command (.openBus { cfgA with tag := 0x01 }) [] ∧
      (resetWith packetBadTag).life = .closed ∧ valid { cfgA with tag := 0x01 } = false) :=
  ⟨⟨⟨rfl, rfl⟩, by decide⟩, ⟨⟨rfl, rfl⟩, by decide, rfl, nofun, nofun⟩, ⟨⟨rfl, rfl⟩, by decide, rfl⟩,
   ⟨⟨rfl, rfl⟩, by decide, rfl, by decide⟩, ⟨rfl, rfl⟩, by decide, rfl, by decide⟩

/-- The last test of R151 by a claimed pin. -/
theorem witness_ErrorsAreTestedInOrder_claimed :
    ∃ s : State, Idle s ∧ decode s.commands = .command (.openBus cfgA) [] ∧ s.life = .closed ∧
      ∃ p ∈ configPins cfgA, (s.pad p).claimed = true :=
  ⟨{ heldState 27 with commands := packetA }, ⟨rfl, rfl⟩, by decide, rfl, 27, by decide, by decide⟩

/-- One command that a closed controller turns away, one that succeeds with something after it, one that fails. -/
theorem witness_FacadeErrorsComeUpUnchanged :
    (State.reset.life = .closed ∧ (∀ c, Instr.wrc 0xC2 ≠ .openBus c) ∧ Instr.wrc 0xC2 ≠ .closeBus) ∧
    (after (exec (.wrc 0xC2) (openState cfgB)) fun t =>
      t.status = 0x00#8 ∧ ∃ e, issue false [] t = .next e) ∧
    (after (exec (.rdb 1) (openState cfgB)) fun t => t.status = statusCode .unsupportedOperation) :=
  ⟨⟨rfl, nofun, nofun⟩, ⟨_, rfl, by decide, _, rfl⟩, _, rfl, by decide⟩

/-- R155: a state past the undefined CLOSE is no final state. -/
theorem test_fault_is_not_final :
    ended State.reset = true ∧ ended { State.reset with fault := true } = false := by decide

/-- R128, R138: a façade read on a write-only bus fails at its `RDB`. -/
theorem test_facade_read_unsupported :
    ∃ t, issue false [.rdb 1] (openState cfgB) =
      .next { state := t, error := some .unsupportedOperation, data := [] } :=
  ⟨_, rfl⟩

/-- The first pad and the last, in each mode. -/
theorem witness_MicroOperationsChangeTheirOwnField :
    0 < 28 ∧ 27 < 28 ∧ ((openState cfgA).pad 27).mode = .out ∧ (State.reset.pad 27).mode = .inp := by decide

end Sys2Proof.Tests
end

