-- ==== Sys2Proof/Proofs/Encoding.lean ====
section
/-! PROOFS. The statements of 30_encoding.md: the answer to a reserved opcode byte, and one response packet a command. -/

namespace Sys2Proof.Proofs.Encoding

open Sys2Proof.Machine Sys2Proof.Claims Sys2Proof.Laws

/-! ### One packet of an idle controller -/

section Packet

variable {s : State} {rest : List Byte}

/-- The command at the head of the stream is executed, its packet consumed (R53). -/
theorem step_of_command {i : Instr} (hs : Idle s) (h : decode s.commands = .command i rest) :
    step s = exec i (s.consume rest) := by
  obtain ⟨hfault, hseq⟩ := hs
  simp [step, hfault, hseq, h]

/-- A reserved opcode byte at the head of the stream is answered and consumed (R64). -/
theorem step_of_badOpcode {op : Byte} (hs : Idle s) (h : decode s.commands = .badOpcode op rest) :
    step s = .next (badOpcode (s.consume rest)) := by
  obtain ⟨hfault, hseq⟩ := hs
  simp [step, hfault, hseq, h]

end Packet

/-! ### Reserved opcode bytes -/

/-- R56, R64: `0x00` and `0x07` to `0xFF`. -/
def Reserved (op : Byte) : Prop := op = 0x00#8 ∨ 7 ≤ op.toNat

theorem opcode_or_reserved (op : Byte) : (1 ≤ op.toNat ∧ op.toNat ≤ 6) ∨ Reserved op := by
  unfold Reserved
  bv_omega

theorem decode_reserved {op : Byte} (h : Reserved op) (bs : List Byte) : decode (op :: bs) = .badOpcode op bs := by
  have hne : ∀ k : Nat, 1 ≤ k → k ≤ 6 → op ≠ BitVec.ofNat 8 k := by
    unfold Reserved at h
    intro k h1 h6
    bv_omega
  simp [decode, hne 1, hne 2, hne 3, hne 4, hne 5, hne 6]

/-- Of an idle controller the answer changes the status and the streams and nothing else (R64). -/
theorem badOpcode_consume {s : State} (hs : Idle s) (rest : List Byte) :
    badOpcode (s.consume rest) =
      { s with commands := rest, status := 0x04#8, responses := s.responses ++ [0x04#8] } := by
  obtain ⟨-, hseq⟩ := hs
  simp [badOpcode, fail, respond, State.consume, statusCode, hseq]

/-! ### How a command can answer -/

/-- The program of an accepted command, with the tests that the command has passed (R22, R151). -/
inductive Accepts (s : State) : Instr → List Stmt → Prop where
  | openBus {c : BusConfig} : s.life = .closed → valid c = true → Accepts s (.openBus c) (openProg c)
  | wrc {r : OpenRegs} (b : Byte) : s.life = .opened r → Accepts s (.wrc b) (wrcProg r b)
  | wrb {r : OpenRegs} (bytes : List Byte) : s.life = .opened r → Accepts s (.wrb bytes) (wrbProg r bytes)
  | rdb {r : OpenRegs} (count : Word32) :
      s.life = .opened r → r.canRead = true → Accepts s (.rdb count) (rdbProg r count)
  | rdr {r : OpenRegs} : s.life = .opened r → r.canRead = true → Accepts s .rdr (rdrProg r)
  | closeBus {r : OpenRegs} : s.life = .opened r → Accepts s .closeBus (closeProg r)

theorem checkHandle_ok {s : State} {r : OpenRegs} (h : checkHandle s = .ok r) : s.life = .opened r := by
  unfold checkHandle at h
  split at h
  · cases h
  · next hlife => cases h; exact hlife

theorem readCheck_ok {s : State} {r : OpenRegs} (h : readCheck s = .ok r) :
    s.life = .opened r ∧ r.canRead = true := by
  unfold readCheck at h
  split at h
  · cases h
  · next hok =>
    split at h
    · next hread => cases h; exact ⟨checkHandle_ok hok, hread⟩
    · cases h

/-- A command is turned away by one error, or runs its program and ends as commands of its kind do, or is the undefined
CLOSE, which sets the sticky fault (R46, R93, R152). -/
theorem exec_next_cases {i : Instr} {s t : State} (h : exec i s = .next t) :
    (∃ k, t = fail k s) ∨ (∃ prog, Accepts s i prog ∧ t = commandDone i (runProgram i prog s)) ∨
      (i = .closeBus ∧ s.life = .closed ∧ t.fault = true) := by
  cases i with
  | openBus c =>
    simp only [exec, execOpen] at h
    split at h
    · cases h; exact .inl ⟨_, rfl⟩
    · next hlife =>
      split at h
      · next hvalid => cases h; exact .inr (.inl ⟨_, .openBus hlife hvalid, rfl⟩)
      · cases h; exact .inl ⟨_, rfl⟩
  | wrc b =>
    simp only [exec, execWrc] at h
    split at h
    · cases h; exact .inl ⟨_, rfl⟩
    · next hok => cases h; exact .inr (.inl ⟨_, .wrc b (checkHandle_ok hok), rfl⟩)
  | wrb bytes =>
    simp only [exec, execWrb] at h
    split at h
    · cases h; exact .inl ⟨_, rfl⟩
    · next hok => cases h; exact .inr (.inl ⟨_, .wrb bytes (checkHandle_ok hok), rfl⟩)
  | rdb count =>
    simp only [exec, execRdb] at h
    split at h
    · cases h; exact .inl ⟨_, rfl⟩
    · next hok =>
      obtain ⟨hlife, hread⟩ := readCheck_ok hok
      cases h; exact .inr (.inl ⟨_, .rdb count hlife hread, rfl⟩)
  | rdr =>
    simp only [exec, execRdr] at h
    split at h
    · cases h; exact .inl ⟨_, rfl⟩
    · next hok =>
      obtain ⟨hlife, hread⟩ := readCheck_ok hok
      cases h; exact .inr (.inl ⟨_, .rdr hlife hread, rfl⟩)
  | closeBus =>
    simp only [exec, execClose] at h
    split at h
    · next hlife => cases h; exact .inr (.inl ⟨_, .closeBus hlife, rfl⟩)
    · next hlife => cases h; exact .inr (.inr ⟨rfl, hlife, rfl⟩)

/-! ### The bytes of a read frame -/

/-- A read frame leaves as many bytes as were asked for (R111). -/
theorem length_rdata_readFrame (r : OpenRegs) (rsLevel : Level) (n : Word32) (s : State) :
    (runStmts (readFrame r rsLevel n) s).rdata.length = n.toNat := by
  rw [runStmts_readFrame]
  generalize runStmts (turnLines r .inp) (doWrite (gpio r.cfg .rs) rsLevel s) = u
  obtain ⟨data, hdata, hlen, -⟩ :=
    readBytes_regs r (performStmt .clearData (performStmt (.loadCnt n) (performStmt (.setDir .inp) u))) n.toNat
  change (runStmts (turnLines r .out) _).rdata.length = _
  rw [turnLines_same r _ State.rdata .out fun _ _ => rfl, hdata]
  simpa [performStmt] using hlen

/-! ### Response packets -/

/-- `t` has answered `s` by one response packet (R67): the status byte, and on success the `n` bytes of the frame. -/
def Responds (n : Nat) (s t : State) : Prop :=
  ∃ data, t.responses = s.responses ++ t.status :: data ∧ (data ≠ [] → data = t.rdata) ∧
    data.length = if t.status = 0x00#8 then n else 0

/-- The data bytes of a command's successful response (R67). -/
def dataLength : Instr → Nat
  | .rdb count => count.toNat
  | .rdr => 1
  | .openBus _ | .wrc _ | .wrb _ | .closeBus => 0

theorem statusCode_ne_ok (k : ErrorKind) : statusCode k ≠ 0x00#8 := by cases k <;> decide

section Responses

variable {s u : State} (hu : u.responses = s.responses)

include hu

theorem responds_fail (k : ErrorKind) (n : Nat) : Responds n s (fail k u) :=
  ⟨[], by simp [hu], nofun, by simp [statusCode_ne_ok]⟩

theorem responds_succeed_nil : Responds 0 s (succeed [] u) := ⟨[], by simp [hu], nofun, by simp [statusOk]⟩

theorem responds_succeed_rdata {n : Nat} (hn : u.rdata.length = n) : Responds n s (succeed u.rdata u) :=
  ⟨u.rdata, by simp [hu], fun _ => rfl, by simp [statusOk, hn]⟩

end Responses

/-- An accepted command answers by one response packet: OPEN may still fail by a refused claim (R86), the reads answer
with the bytes of their frame, the others with the status alone. -/
theorem responds_commandDone {s : State} {i : Instr} {prog : List Stmt} (h : Accepts s i prog) :
    Responds (dataLength i) s (commandDone i (runProgram i prog s)) := by
  have hu : (runProgram i prog s).responses = s.responses := (runProgram_untouched i prog s).responses
  cases h with
  | openBus =>
    simp only [commandDone, openDone]
    split
    · exact responds_succeed_nil hu
    · exact responds_fail hu _ _
  | wrc => exact responds_succeed_nil hu
  | wrb => exact responds_succeed_nil hu
  | rdb count => exact responds_succeed_rdata hu (length_rdata_readFrame ..)
  | rdr => exact responds_succeed_rdata hu (length_rdata_readFrame ..)
  | closeBus => exact responds_succeed_nil hu

/-- A command that leaves the fault bit clear answers by one response packet. -/
theorem responds_exec {i : Instr} {s t : State} (h : exec i s = .next t) (hfault : t.fault = false) :
    Responds (dataLength i) s t := by
  obtain ⟨k, rfl⟩ | ⟨prog, haccepts, rfl⟩ | ⟨-, -, htrue⟩ := exec_next_cases h
  · exact responds_fail rfl k _
  · exact responds_commandDone haccepts
  · rw [hfault] at htrue; cases htrue

/-! ### The obligations -/

/-- Settles O3: the reserved opcode bytes are those that the decoder refuses. -/
theorem reservedOpcodeAnswersBadOpcode : Obligations.ReservedOpcodeAnswersBadOpcode := by
  refine ⟨fun s op rest hs hop hcommands => ?_, fun op bs => ?_⟩
  · have hdecode : decode s.commands = .badOpcode op rest := by rw [hcommands]; exact decode_reserved hop rest
    rw [step_of_badOpcode hs hdecode, badOpcode_consume hs]
  · exact (opcode_or_reserved op).imp_right fun hop => decode_reserved hop bs

/-- Settles O47, from the three ways a command can end. -/
theorem oneResponsePacketPerCommand : Obligations.OneResponsePacketPerCommand := by
  refine ⟨fun s t op rest hs hdecode hstep => ?_, fun s t i rest hs hdecode hstep hfault => ?_⟩
  · rw [step_of_badOpcode hs hdecode] at hstep
    cases hstep
    exact ⟨rfl, statusCode_ne_ok .badOpcode⟩
  · rw [step_of_command hs hdecode] at hstep
    obtain ⟨data, hresponses, hrdata, hlen⟩ := responds_exec hstep hfault
    refine ⟨data, hresponses, hrdata, hlen.trans ?_⟩
    cases i <;> rfl

end Sys2Proof.Proofs.Encoding
end

