-- ==== Sys2Proof/Proofs/Lifecycle.lean ====
section
/-! PROOFS. The statements of 41_lifecycle.md: validation, the two ends of OPEN, CLOSE, and the configuration between
them. -/

namespace Sys2Proof.Proofs.Lifecycle

open Sys2Proof.Machine Sys2Proof.Claims Sys2Proof.Laws Sys2Proof.Proofs.Encoding

/-! ### Validation (R84) -/

section Validation

variable {c : BusConfig}

theorem legal_iff_le {b : Byte} : legal b = true ↔ b.toNat ≤ 27 := (legal_iff b).trans Nat.lt_succ_iff

theorem unset_iff {b : Byte} : unset b = true ↔ b = 0xFF#8 := decide_eq_true_iff

/-- A delay is accepted when it is nonnegative as a signed number (R20). -/
theorem not_negativeDelay_iff {d : Word32} : (!negativeDelay d) = true ↔ 0 ≤ d.toInt := by
  simp [negativeDelay, BitVec.msb_eq_toInt]

theorem width4_iff : width4 c = true ↔ c.d0 = 0xFF#8 ∧ c.d1 = 0xFF#8 ∧ c.d2 = 0xFF#8 ∧ c.d3 = 0xFF#8 := by
  simp only [width4, Bool.and_eq_true, unset_iff, and_assoc]

theorem readable_iff : readable c = true ↔ c.rw.toNat ≤ 27 := legal_iff_le

theorem validTag_iff : validTag c = true ↔ c.tag = 0x00#8 := decide_eq_true_iff

theorem validDelays_iff : validDelays c = true ↔
    0 ≤ c.tSu.toInt ∧ 0 ≤ c.tClk.toInt ∧ 0 ≤ c.tRd.toInt ∧ 0 ≤ c.tProc.toInt ∧ 0 ≤ c.tH.toInt := by
  simp only [validDelays, Bool.and_eq_true, not_negativeDelay_iff, and_assoc]

theorem validControl_iff : validControl c = true ↔ c.rs.toNat ≤ 27 ∧ c.ew.toNat ≤ 27 := by
  simp only [validControl, Bool.and_eq_true, legal_iff_le]

theorem validHigh_iff : validHigh c = true ↔
    c.d4.toNat ≤ 27 ∧ c.d5.toNat ≤ 27 ∧ c.d6.toNat ≤ 27 ∧ c.d7.toNat ≤ 27 := by
  simp only [validHigh, Bool.and_eq_true, legal_iff_le, and_assoc]

theorem validLow_iff : validLow c = true ↔
    (c.d0 = 0xFF#8 ∧ c.d1 = 0xFF#8 ∧ c.d2 = 0xFF#8 ∧ c.d3 = 0xFF#8) ∨
      (c.d0.toNat ≤ 27 ∧ c.d1.toNat ≤ 27 ∧ c.d2.toNat ≤ 27 ∧ c.d3.toNat ≤ 27) := by
  simp only [validLow, Bool.or_eq_true, Bool.and_eq_true, unset_iff, legal_iff_le, and_assoc]

/-- Where V5 holds, an unset `D0` means that all of the low four are. -/
theorem width4_iff_d0 (hlow : validLow c = true) : width4 c = true ↔ c.d0 = 0xFF#8 := by
  refine ⟨fun hwidth => (width4_iff.mp hwidth).1, fun hd0 => ?_⟩
  rcases validLow_iff.mp hlow with hunset | ⟨hlegal, -⟩
  · exact width4_iff.mpr hunset
  · rw [hd0] at hlegal; exact absurd hlegal (by decide)

/-- Where V5 holds, the bus is 8 bits wide exactly when the low four are legal (R85). -/
theorem width8_iff (hlow : validLow c = true) : width4 c = false ↔
    c.d0.toNat ≤ 27 ∧ c.d1.toNat ≤ 27 ∧ c.d2.toNat ≤ 27 ∧ c.d3.toNat ≤ 27 := by
  refine ⟨fun hwidth => ?_, fun ⟨hlegal, _⟩ => ?_⟩
  · refine (validLow_iff.mp hlow).resolve_left fun hunset => ?_
    rw [width4_iff.mpr hunset] at hwidth; cases hwidth
  · refine Bool.eq_false_iff.mpr fun hwidth => ?_
    rw [(width4_iff.mp hwidth).1] at hlegal; exact absurd hlegal (by decide)

/-- The pin fields of the used lines, by the fields' own values (R84 V6). -/
def usedPinBytes (c : BusConfig) : List Byte :=
  (if c.d0 = 0xFF#8 then [] else [c.d0, c.d1, c.d2, c.d3]) ++ [c.d4, c.d5, c.d6, c.d7, c.rs, c.ew]
    ++ (if c.rw.toNat ≤ 27 then [c.rw] else [])

theorem map_pinByte_configLines (hlow : validLow c = true) : (configLines c).map (pinByte c) = usedPinBytes c := by
  simp only [configLines, lines, dataLines, usedPinBytes, width4_iff_d0 hlow, readable_iff]
  split <;> split <;> rfl

/-- Pin fields are different exactly when the GPIO numbers they name are. -/
theorem validDistinct_iff (hlow : validLow c = true) : validDistinct c = true ↔ (usedPinBytes c).Nodup := by
  have hpins : configPins c = (usedPinBytes c).map BitVec.toNat := by
    rw [← map_pinByte_configLines hlow, List.map_map]; rfl
  rw [validDistinct, decide_eq_true_iff, hpins, List.nodup_map_iff BitVec.toNat_injective]

theorem valid_iff_checks : valid c = true ↔ validTag c = true ∧ validDelays c = true ∧ validControl c = true ∧
    validHigh c = true ∧ validLow c = true ∧ validDistinct c = true := by
  simp only [valid, Bool.and_eq_true, and_assoc]

/-- V1 to V6 on the fields. -/
theorem valid_iff : valid c = true ↔
    c.tag = 0x00#8 ∧
    (0 ≤ c.tSu.toInt ∧ 0 ≤ c.tClk.toInt ∧ 0 ≤ c.tRd.toInt ∧ 0 ≤ c.tProc.toInt ∧ 0 ≤ c.tH.toInt) ∧
    (c.rs.toNat ≤ 27 ∧ c.ew.toNat ≤ 27) ∧
    (c.d4.toNat ≤ 27 ∧ c.d5.toNat ≤ 27 ∧ c.d6.toNat ≤ 27 ∧ c.d7.toNat ≤ 27) ∧
    ((c.d0 = 0xFF#8 ∧ c.d1 = 0xFF#8 ∧ c.d2 = 0xFF#8 ∧ c.d3 = 0xFF#8) ∨
      (c.d0.toNat ≤ 27 ∧ c.d1.toNat ≤ 27 ∧ c.d2.toNat ≤ 27 ∧ c.d3.toNat ≤ 27)) ∧
    (usedPinBytes c).Nodup := by
  simp only [valid_iff_checks, validTag_iff, validDelays_iff, validControl_iff, validHigh_iff, ← validLow_iff]
  exact and_congr_right fun _ => and_congr_right fun _ => and_congr_right fun _ => and_congr_right fun _ =>
    and_congr_right validDistinct_iff

theorem validLow_of_valid (hvalid : valid c = true) : validLow c = true := by
  obtain ⟨-, -, -, -, hlow, -⟩ := valid_iff_checks.mp hvalid
  exact hlow

theorem nodup_configPins (hvalid : valid c = true) : (configPins c).Nodup := by
  obtain ⟨-, -, -, -, -, hdistinct⟩ := valid_iff_checks.mp hvalid
  exact of_decide_eq_true hdistinct

theorem nodup_gpio_configLines (hvalid : valid c = true) : ((configLines c).map (gpio c)).Nodup :=
  nodup_configPins hvalid

/-- A pin stands once among the pins of a valid configuration, so the pins before it are others. -/
theorem nodup_before {before later : List Nat} {p : Nat} (hvalid : valid c = true)
    (hpins : configPins c = before ++ p :: later) : before.Nodup ∧ p ∉ before := by
  have hnodup := nodup_configPins hvalid
  rw [hpins, List.nodup_append] at hnodup
  obtain ⟨hbefore, -, hdisjoint⟩ := hnodup
  exact ⟨hbefore, fun hp => hdisjoint p hp p List.mem_cons_self rfl⟩

theorem configPins_ne_nil (c : BusConfig) : configPins c ≠ [] := by
  simp [configPins, pins, lines]

end Validation

/-! ### How OPEN ends -/

section Open

variable {c : BusConfig} {s : State}

theorem exec_open_of_opened {r : OpenRegs} (hlife : s.life = .opened r) (c : BusConfig) :
    exec (.openBus c) s = .next (fail .handleInvalid s) := by
  simp [exec, execOpen, hlife]

theorem exec_open_of_invalid (hlife : s.life = .closed) (hvalid : valid c = false) :
    exec (.openBus c) s = .next (fail .configurationError s) := by
  simp [exec, execOpen, hlife, hvalid]

theorem exec_open_of_valid (hlife : s.life = .closed) (hvalid : valid c = true) :
    exec (.openBus c) s = .next (openDone c (runProgram (.openBus c) (openProg c) s)) := by
  simp [exec, execOpen, hlife, hvalid]

theorem openDone_of_granted (hres : s.res = true) (c : BusConfig) :
    openDone c s = succeed [] { s with life := .opened (openRegs c), owned := configPins c, dir := .out } :=
  if_pos hres

theorem openDone_of_refused (hres : s.res = false) (c : BusConfig) : openDone c s = fail .configurationError s := by
  simp [openDone, hres]

/-- OPEN answers `00` only after its commit (R88). -/
theorem life_openDone_of_ok (h : (openDone c s).status = 0x00#8) : (openDone c s).life = .opened (openRegs c) := by
  cases hres : s.res with
  | true => rw [openDone_of_granted hres]; rfl
  | false => rw [openDone_of_refused hres] at h; cases h

end Open

/-! ### Commands accepted, and pads under claims and releases -/

theorem claimsOnly_accept (i : Instr) (prog : List Stmt) (s : State) : ClaimsOnly s (accept i prog s) :=
  { ClaimsOnly.refl s with }

/-- Claims and releases can change nothing of a pad but its claim. -/
theorem pad_eq_of_claimsOnly {s t : State} (k : ClaimsOnly s t) {p : Nat}
    (hclaimed : (t.pad p).claimed = (s.pad p).claimed) : t.pad p = s.pad p := by
  have hmode := k.mode p
  have hlatch := k.latch p
  cases ht : t.pad p
  cases hs : s.pad p
  simp_all

theorem claimsOnly_claimAll_accept (ps : List Nat) (i : Instr) (prog : List Stmt) (s : State) :
    ClaimsOnly s (claimAll ps (accept i prog s)) :=
  (claimsOnly_accept i prog s).trans (claimsOnly_claimAll ps _)

theorem pad_claimAll_accept_other {ps : List Nat} {p : Nat} (hp : p ∉ ps) (i : Instr) (prog : List Stmt) (s : State) :
    (claimAll ps (accept i prog s)).pad p = s.pad p := by
  refine pad_eq_of_claimsOnly (claimsOnly_claimAll_accept ps i prog s) ?_
  simp [claimed_claimAll, hp]

/-! ### OPEN with every pin free -/

/-- The registers and ghosts that no phase of OPEN writes (R86, R87, R94). -/
structure DataPathKept (s t : State) : Prop where
  txb : t.txb = s.txb
  rxb : t.rxb = s.rxb
  cnt : t.cnt = s.cnt
  h : t.h = s.h
  rdata : t.rdata = s.rdata
  draws : t.draws = s.draws
  tmin : t.tmin = s.tmin
  nEw : t.nEw = s.nEw
  nRw : t.nRw = s.nRw

theorem dataPathKept_of_claimsOnly {s t : State} (k : ClaimsOnly s t) : DataPathKept s t :=
  ⟨k.txb, k.rxb, k.cnt, k.h, k.rdata, k.draws, k.tmin, k.nEw, k.nRw⟩

theorem DataPathKept.trans {s t u : State} (a : DataPathKept s t) (b : DataPathKept t u) : DataPathKept s u :=
  ⟨b.txb.trans a.txb, b.rxb.trans a.rxb, b.cnt.trans a.cnt, b.h.trans a.h, b.rdata.trans a.rdata,
    b.draws.trans a.draws, b.tmin.trans a.tmin, b.nEw.trans a.nEw, b.nRw.trans a.nRw⟩

theorem dataPathKept_initPhase (c : BusConfig) (ls : List Line) (s : State) :
    DataPathKept s (runStmts (initPhase c ls) s) := by
  constructor
  all_goals exact initPhase_same _ c ls (fun _ _ _ => rfl) (fun _ _ _ => rfl) s

section Granted

variable {c : BusConfig} {s : State} (hvalid : valid c = true)
  (hfree : ∀ p ∈ configPins c, (s.pad p).claimed = false)

include hvalid hfree

/-- The program of OPEN on free pins claims all of them and initialises the lines (R86, R87). -/
theorem runProgram_open_granted : runProgram (.openBus c) (openProg c) s =
    runStmts (initPhase c (configLines c)) (claimAll (configPins c) (accept (.openBus c) (openProg c) s)) :=
  runStmts_claimPhase [] _ (nodup_configPins hvalid) hfree

theorem res_open_granted : (runProgram (.openBus c) (openProg c) s).res = true := by
  rw [runProgram_open_granted hvalid hfree,
    initPhase_same State.res c (configLines c) (fun _ _ _ => rfl) (fun _ _ _ => rfl)]
  exact res_claimAll (nodup_configPins hvalid) hfree (configPins_ne_nil c)

theorem trace_open_granted : (runProgram (.openBus c) (openProg c) s).trace =
    s.trace ++ (configPins c).map (fun p => .claim p true) ++
      (configLines c).flatMap fun l => [.write (gpio c l) (initLevel l), .mode (gpio c l) .out] := by
  have hclaims := trace_claimAll (s := accept (.openBus c) (openProg c) s) (nodup_configPins hvalid) hfree
  rw [runProgram_open_granted hvalid hfree, trace_initPhase, hclaims, accept_trace]

/-- Each line's pad after OPEN: claimed, an output, at its initial level. -/
theorem pad_open_granted {l : Line} (hl : l ∈ configLines c) :
    (runProgram (.openBus c) (openProg c) s).pad (gpio c l) =
      { claimed := true, mode := .out, latch := initLevel l } := by
  have hmem : gpio c l ∈ configPins c := List.mem_map_of_mem hl
  rw [runProgram_open_granted hvalid hfree, pad_initPhase (nodup_gpio_configLines hvalid) hl (gpio_lt hvalid hl),
    claimed_claimAll, if_pos ⟨hmem, gpio_lt hvalid hl⟩]

theorem dataPathKept_open_granted : DataPathKept s (runProgram (.openBus c) (openProg c) s) := by
  rw [runProgram_open_granted hvalid hfree]
  exact (dataPathKept_of_claimsOnly (claimsOnly_claimAll_accept _ _ _ s)).trans (dataPathKept_initPhase c _ _)

theorem oracle_open_granted (hdev : s.dev = .oracle) : (runProgram (.openBus c) (openProg c) s).dev = .oracle := by
  rw [runProgram_open_granted hvalid hfree]
  exact oracle_runStmts (noCheck_initPhase c _) _ ((claimsOnly_claimAll_accept _ _ _ s).dev.trans hdev)

/-- A pad that no line of the configuration uses is what it was. -/
theorem pad_open_granted_other {p : Nat} (hp : p ∉ configPins c) :
    (runProgram (.openBus c) (openProg c) s).pad p = s.pad p := by
  have hline : p ∉ (configLines c).map (gpio c) := hp
  rw [runProgram_open_granted hvalid hfree, pad_initPhase_other hline, pad_claimAll_accept_other hp]

end Granted

/-! ### OPEN with a pin already held -/

section Refused

variable {c : BusConfig} {s : State} {granted : List Nat} {p : Nat} {later : List Nat}
  (hvalid : valid c = true) (hpins : configPins c = granted ++ p :: later)
  (hfree : ∀ q ∈ granted, (s.pad q).claimed = false) (hheld : (s.pad p).claimed = true)

include hvalid hpins hfree hheld

/-- The program of OPEN ends at the first pin that is held, and gives back what it was granted (R86). -/
theorem runProgram_open_refused : runProgram (.openBus c) (openProg c) s =
    releaseAll granted.reverse (doClaim p (claimAll granted (accept (.openBus c) (openProg c) s))) := by
  obtain ⟨hnodup, hp⟩ := nodup_before hvalid hpins
  have hrun := runStmts_claimPhase_refused [] later (initPhase c (configLines c))
    (s := accept (.openBus c) (openProg c) s) hnodup hp hfree hheld
  rw [← hpins, List.append_nil] at hrun
  exact hrun

theorem claimsOnly_open_refused : ClaimsOnly s (runProgram (.openBus c) (openProg c) s) := by
  rw [runProgram_open_refused hvalid hpins hfree hheld]
  exact ((claimsOnly_claimAll_accept _ _ _ s).trans (claimsOnly_doClaim _ _)).trans (claimsOnly_releaseAll _ _)

theorem res_open_refused : (runProgram (.openBus c) (openProg c) s).res = false := by
  rw [runProgram_open_refused hvalid hpins hfree hheld, res_releaseAll]
  simp [claimed_claimAll, hheld]

theorem trace_open_refused : (runProgram (.openBus c) (openProg c) s).trace =
    s.trace ++ granted.map (fun q => .claim q true) ++ .claim p false :: granted.reverse.map fun q => .release q := by
  obtain ⟨hnodup, -⟩ := nodup_before hvalid hpins
  have hclaims := trace_claimAll (s := accept (.openBus c) (openProg c) s) hnodup hfree
  rw [runProgram_open_refused hvalid hpins hfree hheld, trace_releaseAll, doClaim_trace, hclaims]
  simp [claimed_claimAll, hheld]

/-- Every pad is what it was: the granted pins are free again, and the refused one is still held (R89). -/
theorem pad_open_refused (q : Nat) : (runProgram (.openBus c) (openProg c) s).pad q = s.pad q := by
  refine pad_eq_of_claimsOnly (claimsOnly_open_refused hvalid hpins hfree hheld) ?_
  rw [runProgram_open_refused hvalid hpins hfree hheld, claimed_releaseAll, pad_doClaim]
  by_cases hlt : q < 28
  · by_cases hq : q ∈ granted
    · simp [hq, hlt, hfree q hq]
    · by_cases hqp : q = p
      · subst hqp; simp [hq, hlt, hheld]
      · simp [hq, hqp, claimed_claimAll]
  · have hnotp : ¬ (q = p ∧ p < 28) := by omega
    simp [hlt, hnotp, claimed_claimAll]

end Refused

/-! ### CLOSE -/

/-- The data lines' GPIO numbers as the statements write them out (R21). -/
theorem map_gpio_dataLines (r : OpenRegs) : (dataLines r.w4).map (gpio r.cfg) = dataPins r := by
  unfold dataLines dataPins
  split <;> rfl

/-- The release order (R92). -/
theorem reverse_pins (r : OpenRegs) : (pins r.cfg r.w4 r.canRead).reverse =
    (if r.canRead then [r.cfg.rw.toNat] else []) ++ [r.cfg.ew.toNat, r.cfg.rs.toNat] ++ (dataPins r).reverse := by
  simp only [pins, lines, List.map_append, map_gpio_dataLines, List.reverse_append]
  split <;> simp [gpio, pinByte]

section Close

variable {s : State} (r : OpenRegs)

theorem exec_close_of_opened {r : OpenRegs} (hlife : s.life = .opened r) :
    exec .closeBus s = .next (closeDone (runProgram .closeBus (closeProg r) s)) := by
  simp [exec, execClose, hlife]

theorem runProgram_close (s : State) : runProgram .closeBus (closeProg r) s =
    releaseAll (pins r.cfg r.w4 r.canRead).reverse (accept .closeBus (closeProg r) s) :=
  runStmts_closeProg r _

theorem claimsOnly_close (s : State) : ClaimsOnly s (runProgram .closeBus (closeProg r) s) := by
  rw [runProgram_close]
  exact (claimsOnly_accept _ _ s).trans (claimsOnly_releaseAll _ _)

theorem trace_close (s : State) : (runProgram .closeBus (closeProg r) s).trace =
    s.trace ++ (pins r.cfg r.w4 r.canRead).reverse.map fun p => .release p := by
  rw [runProgram_close, trace_releaseAll, accept_trace]

theorem claimed_close (s : State) (p : Nat) : ((runProgram .closeBus (closeProg r) s).pad p).claimed =
    if p ∈ pins r.cfg r.w4 r.canRead ∧ p < 28 then false else (s.pad p).claimed := by
  rw [runProgram_close, claimed_releaseAll]
  simp only [List.mem_reverse, pad_accept]

end Close

/-! ### Between OPEN and CLOSE -/

/-- No command but CLOSE writes the configuration or the owned pins of an open controller (R95). -/
theorem config_exec_of_opened {s t : State} {r : OpenRegs} {i : Instr} (hlife : s.life = .opened r)
    (hi : i ≠ .closeBus) (hexec : exec i s = .next t) : t.life = s.life ∧ t.owned = s.owned := by
  obtain ⟨k, rfl⟩ | ⟨prog, haccepts, rfl⟩ | ⟨rfl, -, -⟩ := exec_next_cases hexec
  · exact ⟨rfl, rfl⟩
  · have huntouched := runProgram_untouched i prog s
    cases haccepts with
    | openBus hclosed => rw [hlife] at hclosed; cases hclosed
    | closeBus => exact absurd rfl hi
    | _ => exact ⟨huntouched.life, huntouched.owned⟩
  · exact absurd rfl hi

/-! ### OPEN while open -/

/-- The image of a configuration is read back, whatever follows (R55, R63). -/
theorem configOfImage_configImage (c : BusConfig) (rest : List Byte) : configOfImage (configImage c ++ rest) = c := by
  cases c
  simp only [configOfImage, BusConfig.mk.injEq]
  refine ⟨rfl, rfl, rfl, rfl, rfl, rfl, rfl, rfl, rfl, rfl, rfl, rfl, ?_, ?_, ?_, ?_, ?_⟩
  all_goals exact le32_le32Bytes _

theorem decode_encode_openBus (c : BusConfig) (rest : List Byte) :
    decode (encode (.openBus c) ++ rest) = .command (.openBus c) rest := by
  have hlen : (configImage c).length = 32 := rfl
  simp [decode, encode, withOperands, configOfImage_configImage, hlen]

/-- An error of an idle controller changes the status and the streams and nothing else (R152, R153). -/
theorem fail_consume {s : State} (hs : Idle s) (k : ErrorKind) (rest : List Byte) : fail k (s.consume rest) =
    { s with commands := rest, status := statusCode k, responses := s.responses ++ [statusCode k] } := by
  obtain ⟨-, hseq⟩ := hs
  simp [fail, respond, State.consume, hseq]

/-! ### The obligations -/

/-- Settles O10: each of V1 to V6 is its flag, and a failed validation is the response alone. -/
theorem configValidityIsV1ToV6 : Obligations.ConfigValidityIsV1ToV6 :=
  ⟨fun _ => valid_iff, fun _ _ hlife hvalid => exec_open_of_invalid hlife hvalid⟩

/-- Settles O11: what the commit latches is `openRegs`. -/
theorem openLatchesWidthAndReadability : Obligations.OpenLatchesWidthAndReadability := by
  intro c s t hlife hvalid hexec hstatus
  rw [exec_open_of_valid hlife hvalid] at hexec
  cases hexec
  exact ⟨openRegs c, life_openDone_of_ok hstatus, rfl, width4_iff, width8_iff (validLow_of_valid hvalid),
    readable_iff⟩

/-- Settles O12: the claims are all granted, the initialisation phase runs and the commit follows. -/
theorem openClaimsInitialisesAndCommits : Obligations.OpenClaimsInitialisesAndCommits := by
  intro c s hlife hvalid hfree
  refine ⟨_, exec_open_of_valid hlife hvalid, ?_⟩
  have hres := res_open_granted hvalid hfree
  have htrace := trace_open_granted hvalid hfree
  have hpad (l : Line) (hl : l ∈ configLines c) := pad_open_granted hvalid hfree hl
  have hother (p : Nat) (hp : p ∉ configPins c) := pad_open_granted_other hvalid hfree hp
  have hkept := dataPathKept_open_granted hvalid hfree
  have hdev := oracle_open_granted hvalid hfree
  have huntouched := runProgram_untouched (.openBus c) (openProg c) s
  generalize runProgram (.openBus c) (openProg c) s = u at *
  have hresponses : u.responses ++ [statusOk] = s.responses ++ [0x00#8] := by rw [huntouched.responses]; rfl
  rw [openDone_of_granted hres]
  exact ⟨rfl, rfl, rfl, rfl, hresponses, rfl, htrace, hpad, hother, hkept.tmin, hkept.nEw, hkept.nRw,
    huntouched.fault, huntouched.commands, hkept.txb, hkept.rxb, hkept.cnt, hkept.h, hkept.rdata, hkept.draws, hdev⟩

/-- Settles O13: the claims before the held pin are undone, and OPEN ends in `ConfigurationError`. -/
theorem openUndoesARefusedClaim : Obligations.OpenUndoesARefusedClaim := by
  intro c s granted p later hlife hvalid hpins hfree hheld
  refine ⟨_, exec_open_of_valid hlife hvalid, ?_⟩
  have hres := res_open_refused hvalid hpins hfree hheld
  have htrace := trace_open_refused hvalid hpins hfree hheld
  have hpad := pad_open_refused hvalid hpins hfree hheld
  have hkept := claimsOnly_open_refused hvalid hpins hfree hheld
  generalize runProgram (.openBus c) (openProg c) s = u at *
  have hresponses : u.responses ++ [statusCode .configurationError] = s.responses ++ [0x01#8] := by
    rw [hkept.responses]; rfl
  rw [openDone_of_refused hres]
  exact ⟨htrace, hkept.life.trans hlife, hkept.owned, hpad, rfl, hresponses, rfl, hkept.tmin, hkept.nEw, hkept.nRw,
    hkept.fault, hkept.commands, hkept.dev, hkept.dir, hkept.txb, hkept.rxb, hkept.cnt, hkept.h, hkept.rdata,
    hkept.draws⟩

/-- Settles O14: the packet is decoded whole and turned away by the lifecycle test. -/
theorem openWhileOpenIsHandleInvalid : Obligations.OpenWhileOpenIsHandleInvalid := by
  intro s r c rest hs hlife hcommands
  have hdecode : decode s.commands = .command (.openBus c) rest := by rw [hcommands, decode_encode_openBus]
  have hopened : (s.consume rest).life = .opened r := hlife
  rw [step_of_command hs hdecode, exec_open_of_opened hopened, fail_consume hs]
  rfl

/-- Settles O15, by the reason of the failure: already open, not valid, or a pin that is held. -/
theorem failedOpenChangesNothing : Obligations.FailedOpenChangesNothing := by
  intro c s t hexec hstatus
  cases hlife : s.life with
  | opened r =>
    rw [exec_open_of_opened hlife] at hexec
    cases hexec
    exact ⟨hlife, rfl, fun _ => rfl⟩
  | closed =>
    cases hvalid : valid c with
    | false =>
      rw [exec_open_of_invalid hlife hvalid] at hexec
      cases hexec
      exact ⟨hlife, rfl, fun _ => rfl⟩
    | true =>
      rw [exec_open_of_valid hlife hvalid] at hexec
      cases hexec
      rcases first_held (configPins c) s with hfree | ⟨granted, p, later, hpins, hfree, hheld⟩
      · rw [openDone_of_granted (res_open_granted hvalid hfree)] at hstatus
        exact absurd rfl hstatus
      · have hkept := claimsOnly_open_refused hvalid hpins hfree hheld
        rw [openDone_of_refused (res_open_refused hvalid hpins hfree hheld)]
        exact ⟨hkept.life.trans hlife, hkept.owned, pad_open_refused hvalid hpins hfree hheld⟩

/-- Settles O16: CLOSE is its releases and the commit of `CLOSED`. -/
theorem closeReleasesInReverse : Obligations.CloseReleasesInReverse := by
  intro s r hlife
  have hkept := claimsOnly_close r s
  refine ⟨_, exec_close_of_opened hlife, ?_, rfl, rfl, rfl, by simp [closeDone, hkept.responses, statusOk], rfl,
    fun p => ⟨hkept.mode p, hkept.latch p⟩, fun p hlt hp => ?_, fun p hp => ?_, hkept.tmin, hkept.nEw, hkept.nRw,
    hkept.fault, hkept.commands, hkept.dev, hkept.draws⟩
  · refine (trace_close r s).trans ?_
    rw [reverse_pins]
    cases r.canRead <;> simp
  · exact (claimed_close r s p).trans (if_pos ⟨hp, hlt⟩)
  · exact pad_eq_of_claimsOnly hkept ((claimed_close r s p).trans (if_neg fun h => hp h.1))

/-- Settles O44, by what the decoder finds at the head of the stream. -/
theorem configIsFrozenWhileOpen : Obligations.ConfigIsFrozenWhileOpen := by
  intro s t r hs hlife hstep
  cases hdecode : decode s.commands with
  | command i rest =>
    rw [step_of_command hs hdecode] at hstep
    by_cases hi : i = .closeBus
    · exact .inr ⟨rest, by rw [hi]⟩
    · exact .inl (config_exec_of_opened (s := s.consume rest) hlife hi hstep)
  | badOpcode op rest =>
    rw [step_of_badOpcode hs hdecode] at hstep
    cases hstep
    exact .inl ⟨rfl, rfl⟩
  | incomplete =>
    obtain ⟨hfault, hseq⟩ := hs
    simp [step, hfault, hseq, hdecode] at hstep

end Sys2Proof.Proofs.Lifecycle
end

section
/-! PROOFS. The statements of 42_write.md: WRC and WRB, what they leave on the lines, and the write-strobe pulses. -/

namespace Sys2Proof.Proofs.Write

open Sys2Proof.Machine Sys2Proof.Claims Sys2Proof.Laws Sys2Proof.Proofs.Lifecycle

/-! ### What writing bytes leaves alone -/

/-- What the program of a write command leaves alone, whatever bytes it writes (R98, R100, R103). -/
structure WriteKept (r : OpenRegs) (s t : State) : Prop extends Untouched s t where
  oracle : s.dev = .oracle → t.dev = .oracle
  claimed : ∀ p, (t.pad p).claimed = (s.pad p).claimed
  mode : ∀ p, (t.pad p).mode = (s.pad p).mode
  latch : ∀ p, p ∉ dataPins r → p ≠ r.cfg.rs.toNat → p ≠ r.cfg.ew.toNat → (t.pad p).latch = (s.pad p).latch
  dir : t.dir = s.dir
  rxb : t.rxb = s.rxb
  rdata : t.rdata = s.rdata
  res : t.res = s.res
  draws : t.draws = s.draws
  nRw : t.nRw = s.nRw

theorem WriteKept.refl (r : OpenRegs) (s : State) : WriteKept r s s :=
  ⟨Untouched.refl s, id, fun _ => rfl, fun _ => rfl, fun _ _ _ _ => rfl, rfl, rfl, rfl, rfl, rfl, rfl⟩

theorem WriteKept.trans {r : OpenRegs} {s t u : State} (a : WriteKept r s t) (b : WriteKept r t u) :
    WriteKept r s u :=
  ⟨a.toUntouched.trans b.toUntouched, b.oracle ∘ a.oracle, fun p => (b.claimed p).trans (a.claimed p),
    fun p => (b.mode p).trans (a.mode p), fun p hd hrs hew => (b.latch p hd hrs hew).trans (a.latch p hd hrs hew),
    b.dir.trans a.dir, b.rxb.trans a.rxb, b.rdata.trans a.rdata, b.res.trans a.res, b.draws.trans a.draws,
    b.nRw.trans a.nRw⟩

theorem writeKept_accept (r : OpenRegs) (i : Instr) (prog : List Stmt) (s : State) :
    WriteKept r s (accept i prog s) :=
  { WriteKept.refl r s with }

theorem writeKept_loadCnt (r : OpenRegs) (n : Word32) (s : State) : WriteKept r s (performStmt (.loadCnt n) s) :=
  { WriteKept.refl r s with }

theorem writeKept_countDown (r : OpenRegs) (s : State) : WriteKept r s (performStmt .countDown s) :=
  { WriteKept.refl r s with }

/-- A claim, a mode and a latch that are kept make a pad that is kept. -/
theorem WriteKept.pad {r : OpenRegs} {s t : State} (k : WriteKept r s t) {p : Nat} (hd : p ∉ dataPins r)
    (hrs : p ≠ r.cfg.rs.toNat) (hew : p ≠ r.cfg.ew.toNat) : t.pad p = s.pad p := by
  have hclaimed := k.claimed p
  have hmode := k.mode p
  have hlatch := k.latch p hd hrs hew
  cases ht : t.pad p
  cases hs : s.pad p
  simp_all

/-- A write command that has answered `00` has the frame of its statement (R95, R98, R102). -/
theorem WriteKept.writeFrame {r : OpenRegs} {s t : State} (k : WriteKept r s t) : WriteFrame r s (succeed [] t) where
  life := k.life
  owned := k.owned
  fault := k.fault
  commands := k.commands
  idle := rfl
  oracle := k.oracle
  claimed := k.claimed
  mode := k.mode
  pad := fun _ hd hrs hew => k.pad hd hrs hew
  dir := k.dir
  rxb := k.rxb
  rdata := k.rdata
  res := k.res
  draws := k.draws
  nRw := k.nRw

theorem WriteKept.responses_succeed {r : OpenRegs} {s t : State} (k : WriteKept r s t) :
    (succeed [] t).responses = s.responses ++ [0x00#8] :=
  congrArg (· ++ [0x00#8]) k.responses

/-! ### One byte -/

section Byte

variable (r : OpenRegs) (rsLevel : Level) (b : Byte) (s : State)

theorem mode_busWrite (p : Nat) : ((runStmts (busWrite r rsLevel b) s).pad p).mode = (s.pad p).mode := by
  by_cases hp : p < 28
  · rw [mode_runStmts (noCheck_busWrite r rsLevel b) s hp]
    exact modeAfter_same (fun m => (kinds_busWrite r rsLevel b p m).2.2.2) _
  · rw [pad_of_ge _ hp, pad_of_ge _ hp]

/-- A pin that is neither RS, EW nor a data line keeps its latch. -/
theorem latch_busWrite_other {p : Nat} (hd : p ∉ dataPins r) (hrs : p ≠ r.cfg.rs.toNat) (hew : p ≠ r.cfg.ew.toNat) :
    ((runStmts (busWrite r rsLevel b) s).pad p).latch = (s.pad p).latch := by
  have hnever : ∀ v, Stmt.op (.write p v) ∉ busWrite r rsLevel b := by
    intro v hmem
    rcases writes_busWrite r rsLevel b hmem with h | h | h
    · exact hrs h
    · exact hew h
    · rw [map_gpio_dataLines] at h
      exact hd h
  by_cases hp : p < 28
  · rw [latch_runStmts (noCheck_busWrite r rsLevel b) s hp, latchAfter_same hnever]
  · rw [pad_of_ge _ hp, pad_of_ge _ hp]

theorem writeKept_busWrite : WriteKept r s (runStmts (busWrite r rsLevel b) s) := by
  have hnocheck := noCheck_busWrite r rsLevel b
  have hkinds (p : Nat) := kinds_busWrite r rsLevel b p .out
  obtain ⟨hrxb, hrdata, hres, hdir, hdraws, hnRw, -⟩ := same_busWrite r rsLevel b s
  exact ⟨runStmts_untouched _ s, oracle_runStmts hnocheck s,
    claimed_runStmts hnocheck (fun p => (hkinds p).1) (fun p => (hkinds p).2.1) s, mode_busWrite r rsLevel b s,
    fun p => latch_busWrite_other r rsLevel b s, hdir, hrxb, hrdata, hres, hdraws, hnRw⟩

/-- The micro-operations of a byte are the events of the statements: the nibbles are the byte's own bits (R39, R100). -/
theorem map_plainEvent_busWrite :
    (microOps (busWrite r rsLevel b)).map plainEvent = writeByteEvents r rsLevel b := by
  cases h : r.w4
  all_goals
    simp [microOps, List.filterMap_cons, busWrite, h, driveData8, driveData4, writeCycle, Stmt.microOp, plainEvent,
      writeByteEvents, writeCycleEvents, hiNibble, loNibble, gpio, pinByte, delayNs]

theorem trace_busWrite : (runStmts (busWrite r rsLevel b) s).trace = s.trace ++ writeByteEvents r rsLevel b := by
  have hkinds (p : Nat) := kinds_busWrite r rsLevel b p .out
  rw [trace_runStmts_plain (noCheck_busWrite r rsLevel b) (fun p => (hkinds p).1) (fun p => (hkinds p).2.2.1),
    map_plainEvent_busWrite]

end Byte

/-! ### A block of bytes -/

/-- From `s` to `t` the bytes were written back to back with RS at `rsLevel` (R100, R103). -/
structure BytesWritten (r : OpenRegs) (rsLevel : Level) (bytes : List Byte) (s t : State) : Prop
    extends WriteKept r s t where
  trace : t.trace = s.trace ++ bytes.flatMap (writeByteEvents r rsLevel)
  txb : t.txb = bytes.getLastD s.txb
  nEw : t.nEw = s.nEw + cyclesPerByte r * bytes.length

section Block

variable {r : OpenRegs} {rsLevel : Level} {s t : State}

theorem bytesWritten_nil (k : WriteKept r s t) (htrace : t.trace = s.trace) (htxb : t.txb = s.txb)
    (hnEw : t.nEw = s.nEw) : BytesWritten r rsLevel [] s t :=
  ⟨k, by simp [htrace], htxb, hnEw⟩

theorem bytesWritten_busWrite (r : OpenRegs) (rsLevel : Level) (b : Byte) (s : State) :
    BytesWritten r rsLevel [b] s (runStmts (busWrite r rsLevel b) s) := by
  obtain ⟨htxb, -, hnEw⟩ := regs_busWrite r rsLevel b s
  exact ⟨writeKept_busWrite r rsLevel b s, by simp [trace_busWrite], htxb, by simpa using hnEw⟩

theorem BytesWritten.append {u : State} {a b : List Byte} (h : BytesWritten r rsLevel a s t)
    (k : BytesWritten r rsLevel b t u) : BytesWritten r rsLevel (a ++ b) s u where
  toWriteKept := h.toWriteKept.trans k.toWriteKept
  trace := by simp [k.trace, h.trace]
  txb := by cases b <;> simp [k.txb, h.txb, List.getLastD_eq_getLast?]
  nEw := by rw [k.nEw, h.nEw, List.length_append, Nat.mul_add, Nat.add_assoc]

end Block

/-- The bytes of WRB's program, the counted loop of R103 unrolled. -/
def writeBytes (r : OpenRegs) (bytes : List Byte) : List Stmt :=
  bytes.flatMap fun b => busWrite r Config.rsDataLevel b ++ [.countDown]

/-- One more byte of a block (R103). -/
theorem runStmts_writeBytes_cons (r : OpenRegs) (b : Byte) (bytes : List Byte) (s : State) :
    runStmts (writeBytes r (b :: bytes)) s = runStmts (writeBytes r bytes)
      (performStmt .countDown (runStmts (busWrite r Config.rsDataLevel b) s)) := by
  have hnocheck := noCheck_busWrite r Config.rsDataLevel b
  simp only [writeBytes, List.flatMap_cons, List.append_assoc]
  rw [runStmts_append hnocheck]
  exact runStmts_cons (by simp) _ _

theorem bytesWritten_writeBytes (r : OpenRegs) (bytes : List Byte) (s : State) :
    BytesWritten r Config.rsDataLevel bytes s (runStmts (writeBytes r bytes) s) := by
  induction bytes generalizing s with
  | nil => exact bytesWritten_nil (WriteKept.refl r s) rfl rfl rfl
  | cons b bytes ih =>
    rw [runStmts_writeBytes_cons]
    have hcount : BytesWritten r Config.rsDataLevel [] (runStmts (busWrite r Config.rsDataLevel b) s) _ :=
      bytesWritten_nil (writeKept_countDown r _) rfl rfl rfl
    exact ((bytesWritten_busWrite r Config.rsDataLevel b s).append hcount).append (ih _)

/-- `CNT` counts the bytes down (R103). -/
theorem cnt_writeBytes (r : OpenRegs) (bytes : List Byte) (s : State) :
    (runStmts (writeBytes r bytes) s).cnt = s.cnt - BitVec.ofNat 32 bytes.length := by
  induction bytes generalizing s with
  | nil => simp [writeBytes]
  | cons b bytes ih =>
    obtain ⟨-, -, -, -, -, -, hcnt⟩ := same_busWrite r Config.rsDataLevel b s
    rw [runStmts_writeBytes_cons, ih]
    simp only [performStmt, hcnt, List.length_cons]
    rw [BitVec.ofNat_add, BitVec.add_comm, BitVec.sub_sub]
    rfl

/-! ### The two commands -/

section Commands

variable {s : State}

theorem exec_wrc_of_closed (hlife : s.life = .closed) (b : Byte) :
    exec (.wrc b) s = .next (fail .handleInvalid s) := by
  simp [exec, execWrc, checkHandle, hlife]

theorem exec_wrb_of_closed (hlife : s.life = .closed) (bytes : List Byte) :
    exec (.wrb bytes) s = .next (fail .handleInvalid s) := by
  simp [exec, execWrb, checkHandle, hlife]

variable {r : OpenRegs}

theorem exec_wrc_of_opened (hlife : s.life = .opened r) (b : Byte) :
    exec (.wrc b) s = .next (succeed [] (runProgram (.wrc b) (wrcProg r b) s)) := by
  simp [exec, execWrc, checkHandle, hlife, wrcDone]

theorem exec_wrb_of_opened (hlife : s.life = .opened r) (bytes : List Byte) :
    exec (.wrb bytes) s = .next (succeed [] (runProgram (.wrb bytes) (wrbProg r bytes) s)) := by
  simp [exec, execWrb, checkHandle, hlife, wrbDone]

variable (r s)

/-- The program of WRC writes its byte at the command level (R101). -/
theorem bytesWritten_wrc (b : Byte) :
    BytesWritten r Config.rsCmdLevel [b] s (runProgram (.wrc b) (wrcProg r b) s) := by
  have haccept : BytesWritten r Config.rsCmdLevel [] s (accept (.wrc b) (wrcProg r b) s) :=
    bytesWritten_nil (writeKept_accept r _ _ s) rfl rfl rfl
  exact haccept.append (bytesWritten_busWrite r Config.rsCmdLevel b _)

theorem cnt_wrc (b : Byte) : (runProgram (.wrc b) (wrcProg r b) s).cnt = s.cnt := by
  obtain ⟨-, -, -, -, -, -, hcnt⟩ := same_busWrite r Config.rsCmdLevel b (accept (.wrc b) (wrcProg r b) s)
  exact hcnt

/-- A block is its bytes run after `CNT` is loaded (R103). -/
theorem runProgram_wrb (bytes : List Byte) : runProgram (.wrb bytes) (wrbProg r bytes) s =
    runStmts (writeBytes r bytes) (performStmt (.loadCnt (BitVec.ofNat 32 bytes.length))
      (accept (.wrb bytes) (wrbProg r bytes) s)) :=
  runStmts_cons (by simp) _ _

/-- The program of WRB writes its bytes in order at the data level (R103). -/
theorem bytesWritten_wrb (bytes : List Byte) :
    BytesWritten r Config.rsDataLevel bytes s (runProgram (.wrb bytes) (wrbProg r bytes) s) := by
  have hload : BytesWritten r Config.rsDataLevel [] s (performStmt (.loadCnt (BitVec.ofNat 32 bytes.length))
      (accept (.wrb bytes) (wrbProg r bytes) s)) :=
    bytesWritten_nil ((writeKept_accept r _ _ s).trans (writeKept_loadCnt r _ _)) rfl rfl rfl
  rw [runProgram_wrb]
  exact hload.append (bytesWritten_writeBytes r bytes _)

theorem cnt_wrb (bytes : List Byte) : (runProgram (.wrb bytes) (wrbProg r bytes) s).cnt = 0#32 := by
  rw [runProgram_wrb, cnt_writeBytes]
  exact BitVec.sub_self _

end Commands

/-! ### The lines of an open controller -/

theorem rs_mem_lines (w4 canRead : Bool) : .rs ∈ lines w4 canRead := by simp [lines]

theorem ew_mem_lines (w4 canRead : Bool) : .ew ∈ lines w4 canRead := by simp [lines]

theorem mem_lines_of_data {w4 : Bool} {l : Line} (hl : l ∈ dataLines w4) (canRead : Bool) : l ∈ lines w4 canRead := by
  simp [lines, hl]

theorem ne_control_of_data {w4 : Bool} {l : Line} (hl : l ∈ dataLines w4) : l ≠ .rs ∧ l ≠ .ew := by
  cases w4 <;> constructor <;> rintro rfl <;> simp [dataLines, lowLines, highLines] at hl

/-- The data lines of 8-bit mode are `D0` to `D7`. -/
theorem data_mem_of_width8 {w4 : Bool} (hw : w4 = false) (i : Fin 8) : .d i ∈ dataLines w4 := by
  subst hw
  revert i
  decide

/-- The indices that a write to the data lines of 8-bit mode runs through (R96). -/
theorem index8_mem (i : Fin 8) : i ∈ [0, 1, 2, 3, 4, 5, 6, 7] := by revert i; decide

/-- The indices that a write to the data lines of 4-bit mode runs through (R97). -/
theorem index4_mem (j : Fin 4) : j.natAdd 4 ∈ ([4, 5, 6, 7] : List (Fin 8)) := by revert j; decide

/-- The data lines of 4-bit mode are `D4` to `D7`. -/
theorem data_mem_of_width4 {w4 : Bool} (hw : w4 = true) {i : Fin 8} (hi : i ∈ [4, 5, 6, 7]) :
    .d i ∈ dataLines w4 := by
  subst hw
  revert i
  decide

section Lines

variable {r : OpenRegs} {s : State} (hinv : OpenInv r s)

include hinv

theorem lines_of_openInv : lines r.w4 r.canRead = configLines r.cfg := by
  rw [hinv.w4_eq, hinv.canRead_eq]
  rfl

theorem gpio_lt_of_openInv {l : Line} (hl : l ∈ lines r.w4 r.canRead) : gpio r.cfg l < 28 := by
  rw [lines_of_openInv hinv] at hl
  exact gpio_lt hinv.valid_cfg hl

theorem gpio_inj_of_openInv {l m : Line} (hl : l ∈ lines r.w4 r.canRead) (hm : m ∈ lines r.w4 r.canRead) :
    gpio r.cfg l = gpio r.cfg m ↔ l = m := by
  rw [lines_of_openInv hinv] at hl hm
  exact gpio_inj hinv.valid_cfg hl hm

theorem rs_ne_ew : gpio r.cfg .rs ≠ gpio r.cfg .ew := by
  simp [gpio_inj_of_openInv hinv (rs_mem_lines _ _) (ew_mem_lines _ _)]

theorem rs_ne_data {l : Line} (hl : l ∈ dataLines r.w4) : gpio r.cfg .rs ≠ gpio r.cfg l := by
  rw [Ne, gpio_inj_of_openInv hinv (rs_mem_lines _ _) (mem_lines_of_data hl _)]
  exact (ne_control_of_data hl).1.symm

theorem data_ne_ew {l : Line} (hl : l ∈ dataLines r.w4) : gpio r.cfg l ≠ gpio r.cfg .ew := by
  rw [Ne, gpio_inj_of_openInv hinv (mem_lines_of_data hl _) (ew_mem_lines _ _)]
  exact (ne_control_of_data hl).2

theorem data_inj {i j : Fin 8} (hi : .d i ∈ dataLines r.w4) (hj : .d j ∈ dataLines r.w4) :
    gpio r.cfg (.d i) = gpio r.cfg (.d j) ↔ i = j := by
  rw [gpio_inj_of_openInv hinv (mem_lines_of_data hi _) (mem_lines_of_data hj _), Line.d.injEq]

end Lines

/-! ### The latches after a byte -/

/-- Writes to data lines on different pins leave each line at its own level (R96, R97). -/
theorem latchAfter_map_write (c : BusConfig) (level : Fin 8 → Level) {i : Fin 8} {ls : List (Fin 8)}
    (hinj : ∀ j ∈ ls, gpio c (.d i) = gpio c (.d j) ↔ i = j) (v : Level) :
    latchAfter (gpio c (.d i)) (ls.map fun j => .op (.write (gpio c (.d j)) (level j))) v =
      if i ∈ ls then level i else v := by
  induction ls generalizing v with
  | nil => rfl
  | cons j ls ih =>
    obtain ⟨hj, hls⟩ := List.forall_mem_cons.mp hinj
    rw [List.map_cons, latchAfter, ih hls]
    by_cases hij : i = j
    · subst hij; simp
    · simp [hij, hj]

/-- A write cycle drives EW only (R98). -/
theorem latchAfter_writeCycle {c : BusConfig} {p : Nat} (hew : p ≠ gpio c .ew) (v : Level) :
    latchAfter p (writeCycle c) v = v :=
  latchAfter_same (by simp [writeCycle, hew]) v

section Latches

variable {r : OpenRegs} {s : State} (hinv : OpenInv r s) (rsLevel : Level) (b : Byte) (v : Level)

include hinv

theorem latchAfter_driveData8 (hw : r.w4 = false) (i : Fin 8) :
    latchAfter (gpio r.cfg (.d i)) (driveData8 r.cfg b) v = b.getLsbD i.val := by
  have hinj : ∀ j ∈ [0, 1, 2, 3, 4, 5, 6, 7], gpio r.cfg (.d i) = gpio r.cfg (.d j) ↔ i = j :=
    fun j _ => data_inj hinv (data_mem_of_width8 hw i) (data_mem_of_width8 hw j)
  rw [driveData8, latchAfter_map_write r.cfg _ hinj, if_pos (index8_mem i)]

theorem latchAfter_driveData4 (n : Nibble) (hw : r.w4 = true) (j : Fin 4) :
    latchAfter (gpio r.cfg (.d (j.natAdd 4))) (driveData4 r.cfg n) v = n.getLsbD j.val := by
  have hinj : ∀ i ∈ [4, 5, 6, 7], gpio r.cfg (.d (j.natAdd 4)) = gpio r.cfg (.d i) ↔ j.natAdd 4 = i :=
    fun i hi => data_inj hinv (data_mem_of_width4 hw (index4_mem j)) (data_mem_of_width4 hw hi)
  rw [driveData4, latchAfter_map_write r.cfg _ hinj, if_pos (index4_mem j), Fin.val_natAdd, Nat.add_sub_cancel_left]

/-- In 8-bit mode a byte is left on the data lines bit by bit (R96, R102). -/
theorem data8_busWrite (hw : r.w4 = false) (i : Fin 8) :
    latchAfter (gpio r.cfg (.d i)) (busWrite r rsLevel b) v = b.getLsbD i.val := by
  have hew := data_ne_ew hinv (data_mem_of_width8 hw i)
  have hprog : busWrite r rsLevel b =
      [.loadTxb b, .op (.write (gpio r.cfg .rs) rsLevel)] ++ driveData8 r.cfg b ++ writeCycle r.cfg := by
    simp [busWrite, hw]
  rw [hprog, latchAfter_append, latchAfter_append, latchAfter_writeCycle hew, latchAfter_driveData8 hinv _ _ hw]

/-- In 4-bit mode the low nibble, written last, is left on `D4` to `D7` (R97, R102). -/
theorem data4_busWrite (hw : r.w4 = true) (j : Fin 4) :
    latchAfter (gpio r.cfg (.d (j.natAdd 4))) (busWrite r rsLevel b) v = b.getLsbD j.val := by
  have hew := data_ne_ew hinv (data_mem_of_width4 hw (index4_mem j))
  have hprog : busWrite r rsLevel b =
      ([.loadTxb b, .op (.write (gpio r.cfg .rs) rsLevel), .setPhase false] ++ driveData4 r.cfg (hiNibble b) ++
        writeCycle r.cfg ++ [.setPhase true]) ++ driveData4 r.cfg (loNibble b) ++ writeCycle r.cfg := by
    simp [busWrite, hw]
  rw [hprog, latchAfter_append, latchAfter_append, latchAfter_writeCycle hew, latchAfter_driveData4 hinv _ _ hw]
  simp [loNibble]

end Latches

theorem latch_wrc (r : OpenRegs) (b : Byte) (s : State) {p : Nat} (hp : p < 28) :
    ((runProgram (.wrc b) (wrcProg r b) s).pad p).latch =
      latchAfter p (busWrite r Config.rsCmdLevel b) (s.pad p).latch :=
  latch_runStmts (noCheck_busWrite r Config.rsCmdLevel b) _ hp

/-! ### Write-strobe pulses -/

/-- A write to another pin is no part of a pulse (R99). -/
theorem pulsesFrom_write_ne {p q : Nat} (hne : q ≠ p) (active v : Level) (armed : Bool) (es : List Event) :
    pulsesFrom p active armed (.write q v :: es) = pulsesFrom p active armed es := by
  simp [pulsesFrom, hne]

/-- A write cycle is one pulse on EW and leaves the strobe idle (R98, R99). -/
theorem pulsesFrom_writeCycleEvents (c : BusConfig) (armed : Bool) (es : List Event) :
    pulsesFrom c.ew.toNat Config.ewActive armed (writeCycleEvents c ++ es) =
      1 + pulsesFrom c.ew.toNat Config.ewActive false es := by
  simp [writeCycleEvents, pulsesFrom, Config.ewIdle]

section Pulses

variable {r : OpenRegs} {s : State} (hinv : OpenInv r s)

include hinv

/-- A byte is one pulse in 8-bit mode and two in 4-bit mode (R100, R105). -/
theorem pulsesFrom_writeByteEvents (rsLevel : Level) (b : Byte) (es : List Event) :
    pulsesFrom r.cfg.ew.toNat Config.ewActive false (writeByteEvents r rsLevel b ++ es) =
      cyclesPerByte r + pulsesFrom r.cfg.ew.toNat Config.ewActive false es := by
  have hrs : r.cfg.rs.toNat ≠ r.cfg.ew.toNat := rs_ne_ew hinv
  have hdata : ∀ p ∈ dataPins r, p ≠ r.cfg.ew.toNat := by
    rw [← map_gpio_dataLines]
    exact List.forall_mem_map.mpr fun l hl => data_ne_ew hinv hl
  cases hw : r.w4
  all_goals
    simp [dataPins, hw] at hdata
    simp [writeByteEvents, cyclesPerByte, hw, pulsesFrom_write_ne, hrs, hdata, pulsesFrom_writeCycleEvents,
      ← Nat.add_assoc]

/-- The pulses of a block: as many for every byte (R105). -/
theorem pulses_flatMap_writeByteEvents (rsLevel : Level) (bytes : List Byte) :
    pulses r.cfg.ew.toNat Config.ewActive (bytes.flatMap (writeByteEvents r rsLevel)) =
      cyclesPerByte r * bytes.length := by
  unfold pulses
  induction bytes with
  | nil => rfl
  | cons b bytes ih =>
    rw [List.flatMap_cons, pulsesFrom_writeByteEvents hinv, ih, List.length_cons, Nat.mul_succ, Nat.add_comm]

end Pulses

/-! ### The obligations -/

/-- Settles O25: the empty block is the load of `CNT` and the answer. -/
theorem emptyWrbTouchesNothing : Obligations.EmptyWrbTouchesNothing :=
  ⟨fun _ _ hlife => exec_wrb_of_opened hlife [], fun _ hlife => exec_wrb_of_closed hlife []⟩

/-- Settles O21: the program of WRC writes one byte at the command level. -/
theorem wrcWritesOneCommandByte : Obligations.WrcWritesOneCommandByte := by
  refine ⟨fun s b hlife => exec_wrc_of_closed hlife b, fun s r b hlife => ⟨_, exec_wrc_of_opened hlife b, ?_⟩⟩
  have hwritten := bytesWritten_wrc s r b
  exact ⟨hwritten.writeFrame, by simpa using hwritten.trace, rfl, hwritten.responses_succeed, hwritten.txb,
    cnt_wrc s r b⟩

/-- Settles O22: the latches after the byte, read off its writes. -/
theorem wrcLeavesTheByteOnTheLines : Obligations.WrcLeavesTheByteOnTheLines := by
  intro s r b hlife hinv
  refine ⟨_, exec_wrc_of_opened hlife b, ?_⟩
  have hwritten := bytesWritten_wrc s r b
  have hlatch {l : Line} (hl : l ∈ lines r.w4 r.canRead) := latch_wrc r b s (gpio_lt_of_openInv hinv hl)
  have hdata {l : Line} (hl : l ∈ dataLines r.w4) := hlatch (mem_lines_of_data hl _)
  refine ⟨?_, ?_, fun hw i => ?_, fun hw j => ?_, hwritten.dir.trans hinv.dir_out, hwritten.life⟩
  · exact (hlatch (rs_mem_lines _ _)).trans (rs_busWrite _ _ _ _ (rs_ne_ew hinv) fun l hl => rs_ne_data hinv hl)
  · exact (hlatch (ew_mem_lines _ _)).trans (ew_busWrite _ _ _ _)
  · exact (hdata (data_mem_of_width8 hw i)).trans (data8_busWrite hinv _ _ _ hw i)
  · exact (hdata (data_mem_of_width4 hw (index4_mem j))).trans (data4_busWrite hinv _ _ _ hw j)

/-- Settles O23, by induction on the block (`bytesWritten_writeBytes`). -/
theorem wrbWritesEveryByteInOrder : Obligations.WrbWritesEveryByteInOrder := by
  refine ⟨fun s bytes hlife => exec_wrb_of_closed hlife bytes,
    fun s r bytes hlife => ⟨_, exec_wrb_of_opened hlife bytes, ?_⟩⟩
  have hwritten := bytesWritten_wrb s r bytes
  exact ⟨hwritten.writeFrame, hwritten.trace, rfl, hwritten.responses_succeed, cnt_wrb s r bytes, hwritten.txb⟩

/-- Settles O27: the counter and the events of the bytes written agree. -/
theorem writesPulseOncePerCycle : Obligations.WritesPulseOncePerCycle := by
  refine ⟨fun s r b hlife hinv => ?_, fun s r bytes hlife hinv => ?_, fun s i hlife hi => ?_⟩
  · have hwritten := bytesWritten_wrc s r b
    have hpulses := pulses_flatMap_writeByteEvents hinv Config.rsCmdLevel [b]
    rw [List.length_singleton, Nat.mul_one] at hpulses
    exact ⟨_, _, exec_wrc_of_opened hlife b, hwritten.trace, by simpa using hwritten.nEw, hpulses, hwritten.nRw⟩
  · have hwritten := bytesWritten_wrb s r bytes
    have hpulses := pulses_flatMap_writeByteEvents hinv Config.rsDataLevel bytes
    exact ⟨_, _, exec_wrb_of_opened hlife bytes, hwritten.trace, hwritten.nEw, hpulses, hwritten.nRw⟩
  · obtain ⟨b, rfl⟩ | ⟨bytes, rfl⟩ := hi
    · exact ⟨_, exec_wrc_of_closed hlife b, rfl, rfl⟩
    · exact ⟨_, exec_wrb_of_closed hlife bytes, rfl, rfl⟩

end Sys2Proof.Proofs.Write
end

section
/-! PROOFS. The statements of 43_read.md: RDB and RDR, the bus that they restore, and the read-strobe pulses. -/

namespace Sys2Proof.Proofs.Read

open Sys2Proof.Machine Sys2Proof.Claims Sys2Proof.Laws Sys2Proof.Proofs.Lifecycle Sys2Proof.Proofs.Write

/-! ### How a read command answers -/

/-- The end of a read command: a frame of `n` bytes with RS at `rsLevel`, and the answer with its bytes (R112, R113). -/
def readAnswer (i : Instr) (r : OpenRegs) (rsLevel : Level) (n : Word32) (s : State) : State :=
  rdbDone (runProgram i (readFrame r rsLevel n) s)

section Commands

variable {s : State} {r : OpenRegs}

theorem exec_rdb_of_closed (hlife : s.life = .closed) (count : Word32) :
    exec (.rdb count) s = .next (fail .handleInvalid s) := by
  simp [exec, execRdb, readCheck, checkHandle, hlife]

theorem exec_rdr_of_closed (hlife : s.life = .closed) : exec .rdr s = .next (fail .handleInvalid s) := by
  simp [exec, execRdr, readCheck, checkHandle, hlife]

theorem exec_rdb_of_writeOnly (hlife : s.life = .opened r) (hread : r.canRead = false) (count : Word32) :
    exec (.rdb count) s = .next (fail .unsupportedOperation s) := by
  simp [exec, execRdb, readCheck, checkHandle, hlife, hread]

theorem exec_rdr_of_writeOnly (hlife : s.life = .opened r) (hread : r.canRead = false) :
    exec .rdr s = .next (fail .unsupportedOperation s) := by
  simp [exec, execRdr, readCheck, checkHandle, hlife, hread]

theorem exec_rdb_of_readable (hlife : s.life = .opened r) (hread : r.canRead = true) (count : Word32) :
    exec (.rdb count) s = .next (readAnswer (.rdb count) r Config.rsDataLevel count s) := by
  simp [exec, execRdb, readCheck, checkHandle, hlife, hread, rdbProg, readAnswer]

theorem exec_rdr_of_readable (hlife : s.life = .opened r) (hread : r.canRead = true) :
    exec .rdr s = .next (readAnswer .rdr r Config.rsCmdLevel 1#32 s) := by
  simp [exec, execRdr, readCheck, checkHandle, hlife, hread, rdrProg, readAnswer, rdrDone, rdbDone]

end Commands

/-! ### The statements of a read frame -/

section Program

variable {r : OpenRegs} {rsLevel : Level} {n : Word32} {m : Stmt}

theorem mem_turnLines {d : PadMode} (h : m ∈ turnLines r d) : ∃ p ∈ dataPins r, m = .op (.mode p d) := by
  obtain ⟨l, hl, rfl⟩ := List.mem_map.mp h
  exact ⟨gpio r.cfg l, map_gpio_dataLines r ▸ List.mem_map_of_mem hl, rfl⟩

theorem mem_readBytes {k : Nat} (h : m ∈ readBytes r k) : m ∈ busRead r ∨ m.microOp = none := by
  induction k with
  | zero => cases h
  | succ k ih =>
    simp only [readBytes, List.mem_append, List.mem_cons, List.not_mem_nil, or_false] at h
    obtain (h | rfl | rfl) | h := h
    · exact .inl h
    · exact .inr rfl
    · exact .inr rfl
    · exact ih h

/-- A read frame writes RS, sets the modes of the data lines, reads bytes, and transfers registers (R111). -/
theorem mem_readFrame (h : m ∈ readFrame r rsLevel n) :
    m = .op (.write r.cfg.rs.toNat rsLevel) ∨ (∃ p ∈ dataPins r, ∃ d, m = .op (.mode p d)) ∨ m ∈ busRead r ∨
      m.microOp = none := by
  simp only [readFrame, List.cons_append, List.mem_cons, List.mem_append, List.not_mem_nil, or_false] at h
  obtain rfl | (((h | rfl | rfl | rfl) | h) | h) | rfl := h
  · exact .inl rfl
  · obtain ⟨p, hp, rfl⟩ := mem_turnLines h
    exact .inr (.inl ⟨p, hp, _, rfl⟩)
  · exact .inr (.inr (.inr rfl))
  · exact .inr (.inr (.inr rfl))
  · exact .inr (.inr (.inr rfl))
  · exact .inr (.inr (mem_readBytes h))
  · obtain ⟨p, hp, rfl⟩ := mem_turnLines h
    exact .inr (.inl ⟨p, hp, _, rfl⟩)
  · exact .inr (.inr (.inr rfl))

theorem claim_not_mem_readFrame (p : Nat) : Stmt.op (.claim p) ∉ readFrame r rsLevel n := by
  intro h
  obtain h | ⟨q, -, d, h⟩ | h | h := mem_readFrame h
  · cases h
  · cases h
  · exact (kinds_busRead r p .out).1 h
  · cases h

theorem release_not_mem_readFrame (p : Nat) : Stmt.op (.release p) ∉ readFrame r rsLevel n := by
  intro h
  obtain h | ⟨q, -, d, h⟩ | h | h := mem_readFrame h
  · cases h
  · cases h
  · exact (kinds_busRead r p .out).2.1 h
  · cases h

theorem writes_readFrame {p : Nat} {v : Level} (h : Stmt.op (.write p v) ∈ readFrame r rsLevel n) :
    (p = r.cfg.rs.toNat ∧ v = rsLevel) ∨ p = r.cfg.rw.toNat := by
  obtain h | ⟨q, -, d, h⟩ | h | h := mem_readFrame h
  · cases h; exact .inl ⟨rfl, rfl⟩
  · cases h
  · exact .inr (writes_busRead r h)
  · cases h

theorem modes_readFrame {p : Nat} {d : PadMode} (h : Stmt.op (.mode p d) ∈ readFrame r rsLevel n) :
    p ∈ dataPins r := by
  obtain h | ⟨q, hq, d, h⟩ | h | h := mem_readFrame h
  · cases h
  · cases h; exact hq
  · exact absurd h (kinds_busRead r p _).2.2
  · cases h

end Program

/-! ### What a read frame leaves alone -/

/-- Two pads of one claim, mode and latch are one pad. -/
theorem pad_eq_of_fields {a b : Pad} (hclaimed : a.claimed = b.claimed) (hmode : a.mode = b.mode)
    (hlatch : a.latch = b.latch) : a = b := by
  cases a
  cases b
  simp_all

section Kept

variable (r : OpenRegs) (rsLevel : Level) (n : Word32) (s : State) {p : Nat}

theorem latch_readFrame_other (hrs : p ≠ r.cfg.rs.toNat) (hrw : p ≠ r.cfg.rw.toNat) :
    ((runStmts (readFrame r rsLevel n) s).pad p).latch = (s.pad p).latch := by
  by_cases hp : p < 28
  · rw [latch_runStmts (noCheck_readFrame r rsLevel n) s hp]
    exact latchAfter_same (fun _ h => (writes_readFrame h).elim (fun hw => hrs hw.1) hrw) _
  · rw [pad_of_ge _ hp, pad_of_ge _ hp]

theorem mode_readFrame_other (hd : p ∉ dataPins r) :
    ((runStmts (readFrame r rsLevel n) s).pad p).mode = (s.pad p).mode := by
  by_cases hp : p < 28
  · rw [mode_runStmts (noCheck_readFrame r rsLevel n) s hp]
    exact modeAfter_same (fun _ h => hd (modes_readFrame h)) _
  · rw [pad_of_ge _ hp, pad_of_ge _ hp]

theorem claimed_readFrame (p : Nat) : ((runStmts (readFrame r rsLevel n) s).pad p).claimed = (s.pad p).claimed :=
  claimed_runStmts (noCheck_readFrame r rsLevel n) claim_not_mem_readFrame release_not_mem_readFrame s p

end Kept

/-! ### The frame around the bytes -/

/-- The state in which a read frame starts to read its bytes: RS written, the data lines turned to inputs, `CNT` loaded
and no byte read (R111). -/
def frameStart (r : OpenRegs) (rsLevel : Level) (n : Word32) (s : State) : State :=
  performStmt .clearData (performStmt (.loadCnt n) (performStmt (.setDir .inp)
    (runStmts (turnLines r .inp) (doWrite (gpio r.cfg .rs) rsLevel s))))

section Frame

variable (r : OpenRegs) (rsLevel : Level) (n : Word32) (s : State)

/-- A part of the state that modes and `dir` are no part of is, after a frame, what the bytes left. -/
theorem readFrame_eq_readBytes {α : Type} (f : State → α) (hmode : ∀ p m s, f (doMode p m s) = f s)
    (hdir : ∀ m s, f (performStmt (.setDir m) s) = f s) :
    f (runStmts (readFrame r rsLevel n) s) = f (runStmts (readBytes r n.toNat) (frameStart r rsLevel n s)) := by
  rw [runStmts_readFrame, hdir, turnLines_same r _ f .out fun p => hmode p .out]
  rfl

/-- A part of the state that a frame does not touch before its bytes. -/
theorem frameStart_same {α : Type} (f : State → α) (hwrite : ∀ p v s, f (doWrite p v s) = f s)
    (hmode : ∀ p m s, f (doMode p m s) = f s)
    (hregs : ∀ s, f (performStmt .clearData (performStmt (.loadCnt n) (performStmt (.setDir .inp) s))) = f s) :
    f (frameStart r rsLevel n s) = f s := by
  rw [frameStart, hregs, turnLines_same r _ f .inp fun p => hmode p .inp, hwrite]

/-- The events of a frame before its bytes (R111). -/
theorem trace_frameStart : (frameStart r rsLevel n s).trace =
    s.trace ++ .write r.cfg.rs.toNat rsLevel :: (dataPins r).map (fun p => .mode p .inp) := by
  change (runStmts (turnLines r .inp) (doWrite (gpio r.cfg .rs) rsLevel s)).trace = _
  rw [trace_turnLines, ← map_gpio_dataLines, List.map_map, doWrite_trace, List.append_assoc]
  rfl

/-- The trace of a frame is the bytes' own, with the bus turned back after it (R111). -/
theorem trace_readFrame : (runStmts (readFrame r rsLevel n) s).trace =
    (runStmts (readBytes r n.toNat) (frameStart r rsLevel n s)).trace ++ (dataPins r).map fun p => .mode p .out := by
  rw [runStmts_readFrame]
  change (runStmts (turnLines r .out) (runStmts (readBytes r n.toNat) (frameStart r rsLevel n s))).trace = _
  rw [trace_turnLines, ← map_gpio_dataLines, List.map_map]
  rfl

end Frame

/-- From `s` to `t` a frame of `n` bytes was read with RS at `rsLevel`: `es` are its events and `data` its bytes, each
made of its eight samples (R109 to R111). -/
structure FrameRead (r : OpenRegs) (rsLevel : Level) (n : Nat) (es : List Event) (data : List Byte) (s t : State) :
    Prop where
  trace : t.trace = s.trace ++ es
  ops : es.map Event.microOp = readFrameOps r rsLevel n
  length : data.length = n
  bits : ∀ k i, k < n → i < 8 → (data.getD k 0#8).getLsbD i = (samples es).getD (8 * k + bitPlace r.w4 i) false
  rdata : t.rdata = data
  rxb : t.rxb = data.getLastD s.rxb

/-- The micro-operations of a byte read are those of the statements (R108 to R110). -/
theorem microOps_busRead (r : OpenRegs) : microOps (busRead r) = readByteOps r := by
  cases h : r.w4
  all_goals
    simp [microOps, List.filterMap_cons, busRead, h, readCycle, sampleData, Stmt.microOp, readByteOps, readCycleOps,
      dataPins, gpio, pinByte, delayNs]

/-- Modes set are no samples. -/
theorem samples_map_mode (ps : List Nat) (m : PadMode) : samples (ps.map fun p => .mode p m) = [] := by
  simp [samples, List.filterMap_map]

theorem samples_append (a b : List Event) : samples (a ++ b) = samples a ++ samples b := List.filterMap_append

/-- Every read frame reads its bytes: their events and bits are those of `readBytes_spec`, and the frame around them
samples nothing. -/
theorem frameRead_readFrame (r : OpenRegs) (rsLevel : Level) (n : Word32) (s : State) :
    ∃ es data, FrameRead r rsLevel n.toNat es data s (runStmts (readFrame r rsLevel n) s) := by
  obtain ⟨es, data, htrace, hops, hdata, hlength, -, hbits⟩ :=
    readBytes_spec r (frameStart r rsLevel n s) n.toNat
  obtain ⟨data', hdata', -, hrxb, -⟩ := readBytes_regs r (frameStart r rsLevel n s) n.toNat
  obtain rfl : data' = data := List.append_cancel_left (hdata'.symm.trans hdata)
  refine ⟨.write r.cfg.rs.toNat rsLevel :: (dataPins r).map (fun p => .mode p .inp) ++ es ++
    (dataPins r).map (fun p => .mode p .out), data', ?_, ?_, hlength, ?_, ?_, ?_⟩
  · rw [trace_readFrame, htrace, trace_frameStart]
    simp only [List.append_assoc]
  · simp [hops, microOps_busRead, readFrameOps, Event.microOp, Function.comp_def]
  · intro k i hk hi
    rw [hbits k i hk hi, samples_append, samples_append, samples_map_mode, List.append_nil,
      show samples (.write r.cfg.rs.toNat rsLevel :: (dataPins r).map fun p => .mode p .inp) = [] from
        samples_map_mode _ _, List.nil_append]
  · rw [readFrame_eq_readBytes r rsLevel n s State.rdata (fun _ _ _ => rfl) fun _ _ => rfl, hdata]
    rfl
  · rw [readFrame_eq_readBytes r rsLevel n s State.rxb (fun _ _ _ => rfl) fun _ _ => rfl, hrxb,
      frameStart_same r rsLevel n s State.rxb (fun _ _ _ => rfl) (fun _ _ _ => rfl) fun _ => rfl]

/-- The counters after a frame: `CNT` is counted down, one pulse a cycle, a free value a sample (R111, R117). -/
theorem counters_readFrame (r : OpenRegs) (rsLevel : Level) (n : Word32) (s : State) :
    (runStmts (readFrame r rsLevel n) s).txb = s.txb ∧ (runStmts (readFrame r rsLevel n) s).nEw = s.nEw ∧
      (runStmts (readFrame r rsLevel n) s).draws = s.draws + 8 * n.toNat ∧
      (runStmts (readFrame r rsLevel n) s).nRw = s.nRw + cyclesPerByte r * n.toNat ∧
      (runStmts (readFrame r rsLevel n) s).cnt = 0#32 := by
  have hframe := readFrame_eq_readBytes r rsLevel n s (fun s => (s.txb, s.nEw, s.draws, s.nRw, s.cnt))
    (fun _ _ _ => rfl) fun _ _ => rfl
  have hstart := frameStart_same r rsLevel n s (fun s => (s.txb, s.nEw, s.draws, s.nRw))
    (fun _ _ _ => rfl) (fun _ _ _ => rfl) fun _ => rfl
  simp only [Prod.mk.injEq] at hframe hstart
  obtain ⟨ftxb, fnEw, fdraws, fnRw, fcnt⟩ := hframe
  obtain ⟨stxb, snEw, sdraws, snRw⟩ := hstart
  obtain ⟨btxb, -, bnEw, bdraws, bnRw, bcnt⟩ := readBytes_same r (frameStart r rsLevel n s) n.toNat
  refine ⟨by rw [ftxb, btxb, stxb], by rw [fnEw, bnEw, snEw], by rw [fdraws, bdraws, sdraws],
    by rw [fnRw, bnRw, snRw], ?_⟩
  rw [fcnt, bcnt, BitVec.ofNat_toNat, BitVec.setWidth_eq]
  exact BitVec.sub_self n

/-! ### The state that answers -/

section Answer

variable (i : Instr) (r : OpenRegs) (rsLevel : Level) (n : Word32) (s : State)

theorem readAnswer_responses : (readAnswer i r rsLevel n s).responses =
    s.responses ++ 0x00#8 :: (readAnswer i r rsLevel n s).rdata :=
  congrArg (· ++ _) (runProgram_untouched i (readFrame r rsLevel n) s).responses

/-- A read command answers with the frame of its statement, its bytes and their samples. -/
theorem frameRead_readAnswer :
    ∃ es data, FrameRead r rsLevel n.toNat es data s (readAnswer i r rsLevel n s) := by
  obtain ⟨es, data, h⟩ := frameRead_readFrame r rsLevel n (accept i (readFrame r rsLevel n) s)
  exact ⟨es, data, h.trace, h.ops, h.length, h.bits, h.rdata, h.rxb⟩

/-- The counters after a read command: `CNT` is counted down, one pulse a cycle, no free value but the samples'. -/
theorem readAnswer_counters :
    (readAnswer i r rsLevel n s).txb = s.txb ∧ (readAnswer i r rsLevel n s).nEw = s.nEw ∧
      (readAnswer i r rsLevel n s).draws = s.draws + 8 * n.toNat ∧
      (readAnswer i r rsLevel n s).nRw = s.nRw + cyclesPerByte r * n.toNat ∧
      (readAnswer i r rsLevel n s).cnt = 0#32 :=
  counters_readFrame r rsLevel n (accept i (readFrame r rsLevel n) s)

theorem dir_readAnswer : (readAnswer i r rsLevel n s).dir = .out := by
  change (runStmts (readFrame r rsLevel n) _).dir = _
  rw [runStmts_readFrame]
  rfl

/-- A read command has the frame of its statement (R95, R111, R116). -/
theorem readFrame_readAnswer : ReadFrame r s (readAnswer i r rsLevel n s) := by
  have huntouched := runProgram_untouched i (readFrame r rsLevel n) s
  have hclaimed := claimed_readFrame r rsLevel n (accept i (readFrame r rsLevel n) s)
  obtain ⟨htxb, hnEw, -⟩ := readAnswer_counters i r rsLevel n s
  exact {
    life := huntouched.life
    owned := huntouched.owned
    fault := huntouched.fault
    commands := huntouched.commands
    idle := rfl
    oracle := oracle_runStmts (noCheck_readFrame r rsLevel n) (accept i (readFrame r rsLevel n) s)
    claimed := hclaimed
    latch := fun _ hrs hrw => latch_readFrame_other r rsLevel n _ hrs hrw
    pad := fun p hd hrs hrw => pad_eq_of_fields (hclaimed p) (mode_readFrame_other r rsLevel n _ hd)
      (latch_readFrame_other r rsLevel n _ hrs hrw)
    txb := htxb
    nEw := hnEw }

end Answer

/-! ### The bus after a read -/

/-- Writes of one level leave a latch that holds it alone. -/
theorem latchAfter_const {prog : List Stmt} {p : Nat} {v : Level} (h : ∀ w, .op (.write p w) ∈ prog → w = v) :
    latchAfter p prog v = v := by
  induction prog with
  | nil => rfl
  | cons m ms ih =>
    have htail := ih fun w hw => h w (List.mem_cons_of_mem _ hw)
    rw [latchAfter_cons]
    cases m with
    | op o =>
      cases o with
      | write q w =>
        by_cases hq : p = q
        · subst hq
          simpa [latchAfter, h w List.mem_cons_self] using htail
        · simpa [latchAfter, hq] using htail
      | _ => exact htail
    | _ => exact htail

/-- Modes set to one value. -/
theorem modeAfter_map_mode (c : BusConfig) (m : PadMode) (p : Nat) (ls : List Line) (v : PadMode) :
    modeAfter p (ls.map fun l => .op (.mode (gpio c l) m)) v = if p ∈ ls.map (gpio c) then m else v := by
  induction ls generalizing v with
  | nil => rfl
  | cons l ls ih =>
    rw [List.map_cons, modeAfter, ih]
    by_cases h : p = gpio c l <;> simp [h]

/-- The data lines have the mode they were turned to (R111). -/
theorem modeAfter_turnLines (r : OpenRegs) (m : PadMode) {p : Nat} (hp : p ∈ dataPins r) (v : PadMode) :
    modeAfter p (turnLines r m) v = m := by
  rw [turnLines, modeAfter_map_mode, map_gpio_dataLines, if_pos hp]

/-- The data lines are outputs after a frame (R111, R116). -/
theorem modeAfter_readFrame (r : OpenRegs) (rsLevel : Level) (n : Word32) {p : Nat} (hp : p ∈ dataPins r)
    (v : PadMode) : modeAfter p (readFrame r rsLevel n) v = .out := by
  rw [readFrame, modeAfter_append, modeAfter_append, modeAfter_turnLines r .out hp]
  rfl

theorem rw_mem_lines (w4 : Bool) {canRead : Bool} (hread : canRead = true) : .rw ∈ lines w4 canRead := by
  simp [lines, hread]

section Bus

variable {r : OpenRegs} {s : State} (hinv : OpenInv r s) (hread : r.canRead = true)

include hinv

theorem dataPin_lt {p : Nat} (hp : p ∈ dataPins r) : p < 28 := by
  rw [← map_gpio_dataLines] at hp
  obtain ⟨l, hl, rfl⟩ := List.mem_map.mp hp
  exact gpio_lt_of_openInv hinv (mem_lines_of_data hl _)

theorem dataPin_ne_rs {p : Nat} (hp : p ∈ dataPins r) : p ≠ gpio r.cfg .rs := by
  rw [← map_gpio_dataLines] at hp
  obtain ⟨l, hl, rfl⟩ := List.mem_map.mp hp
  exact (rs_ne_data hinv hl).symm

include hread

theorem rs_ne_rw : gpio r.cfg .rs ≠ gpio r.cfg .rw := by
  simp [gpio_inj_of_openInv hinv (rs_mem_lines _ _) (rw_mem_lines _ hread)]

theorem ew_ne_rw : gpio r.cfg .ew ≠ gpio r.cfg .rw := by
  simp [gpio_inj_of_openInv hinv (ew_mem_lines _ _) (rw_mem_lines _ hread)]

theorem data_ne_rw {l : Line} (hl : l ∈ dataLines r.w4) : gpio r.cfg l ≠ gpio r.cfg .rw := by
  rw [Ne, gpio_inj_of_openInv hinv (mem_lines_of_data hl _) (rw_mem_lines _ hread)]
  rintro rfl
  cases h : r.w4 <;> simp [h, dataLines, lowLines, highLines] at hl

theorem dataPin_ne_rw {p : Nat} (hp : p ∈ dataPins r) : p ≠ gpio r.cfg .rw := by
  rw [← map_gpio_dataLines] at hp
  obtain ⟨l, hl, rfl⟩ := List.mem_map.mp hp
  exact data_ne_rw hinv hread hl

/-- RS keeps the level that a frame writes first (R111, R116). -/
theorem latchAfter_readFrame_rs (rsLevel : Level) (n : Word32) (v : Level) :
    latchAfter (gpio r.cfg .rs) (readFrame r rsLevel n) v = rsLevel := by
  have hfirst : latchAfter (gpio r.cfg .rs) (readFrame r rsLevel n) v =
      latchAfter (gpio r.cfg .rs) (readFrame r rsLevel n) rsLevel := by
    simp [readFrame, latchAfter]
  rw [hfirst]
  exact latchAfter_const fun w h => (writes_readFrame h).elim And.right fun hrw =>
    absurd hrw (rs_ne_rw hinv hread)

/-- RW rests idle after a frame, with or without bytes (R108, R116). -/
theorem latchAfter_readFrame_rw (rsLevel : Level) (n : Word32) :
    latchAfter (gpio r.cfg .rw) (readFrame r rsLevel n) Config.rwIdle = Config.rwIdle := by
  have hturn (m : PadMode) (v : Level) : latchAfter (gpio r.cfg .rw) (turnLines r m) v = v :=
    latchAfter_same (by simp [turnLines]) v
  have hbytes (k : Nat) : latchAfter (gpio r.cfg .rw) (readBytes r k) Config.rwIdle = Config.rwIdle := by
    induction k with
    | zero => rfl
    | succ k ih => rw [readBytes, latchAfter_append, latchAfter_append, rw_busRead]; exact ih
  simp [readFrame, latchAfter_append, latchAfter, hturn, hbytes, (rs_ne_rw hinv hread).symm]

/-- What a read command leaves on the lines (R116). -/
theorem bus_readAnswer (i : Instr) (rsLevel : Level) (n : Word32) :
    ((readAnswer i r rsLevel n s).pad r.cfg.rs.toNat).latch = rsLevel ∧
      (∀ p ∈ dataPins r, ((readAnswer i r rsLevel n s).pad p).mode = .out ∧
        ((readAnswer i r rsLevel n s).pad p).latch = (s.pad p).latch) ∧
      ((readAnswer i r rsLevel n s).pad r.cfg.rw.toNat).latch = Config.rwIdle ∧
      ((readAnswer i r rsLevel n s).pad r.cfg.ew.toNat).latch = Config.ewIdle ∧
      (readAnswer i r rsLevel n s).life = s.life := by
  have hnocheck := noCheck_readFrame r rsLevel n
  have hframe := readFrame_readAnswer i r rsLevel n s
  refine ⟨?_, fun p hp => ⟨?_, ?_⟩, ?_, ?_, hframe.life⟩
  · exact (latch_runStmts hnocheck _ (gpio_lt_of_openInv hinv (rs_mem_lines _ _))).trans
      (latchAfter_readFrame_rs hinv hread rsLevel n _)
  · exact (mode_runStmts hnocheck _ (dataPin_lt hinv hp)).trans (modeAfter_readFrame r rsLevel n hp _)
  · exact hframe.latch p (dataPin_ne_rs hinv hp) (dataPin_ne_rw hinv hread hp)
  · refine (latch_runStmts hnocheck _ (gpio_lt_of_openInv hinv (rw_mem_lines _ hread))).trans ?_
    rw [pad_accept, hinv.rw_idle hread, latchAfter_readFrame_rw hinv hread]
  · exact (hframe.latch _ (rs_ne_ew hinv).symm (ew_ne_rw hinv hread)).trans hinv.ew_idle

end Bus

/-! ### Read-strobe pulses -/

/-- Pulses are told by the writes of a trace, so by its micro-operations (R28, R99). -/
theorem pulsesFrom_eq_of_microOp (p : Nat) (active armed : Level) (es : List Event) :
    pulsesFrom p active armed es = pulsesFrom p active armed ((es.map Event.microOp).map plainEvent) := by
  rw [List.map_map]
  induction es generalizing armed with
  | nil => rfl
  | cons e es ih => cases e <;> simp [pulsesFrom, Event.microOp, plainEvent, ih]

/-- Events that write another pin or none are no part of a pulse (R99). -/
theorem pulsesFrom_append {p : Nat} {es : List Event} (h : ∀ v, .write p v ∉ es) (active armed : Level)
    (rest : List Event) : pulsesFrom p active armed (es ++ rest) = pulsesFrom p active armed rest := by
  induction es with
  | nil => rfl
  | cons e es ih =>
    have htail := ih fun v hv => h v (List.mem_cons_of_mem _ hv)
    cases e with
    | write q v =>
      have hne : q ≠ p := by rintro rfl; exact h v List.mem_cons_self
      rw [List.cons_append, pulsesFrom_write_ne hne, htail]
    | _ => exact htail

/-- A read cycle is one pulse on RW and leaves the strobe idle (R108). -/
theorem pulsesFrom_readCycleOps (r : OpenRegs) (armed : Level) (es : List Event) :
    pulsesFrom r.cfg.rw.toNat Config.rwActive armed ((readCycleOps r).map plainEvent ++ es) =
      1 + pulsesFrom r.cfg.rw.toNat Config.rwActive false es := by
  have hsamples (armed : Level) (rest : List Event) := pulsesFrom_append (p := r.cfg.rw.toNat)
    (es := (dataPins r).map fun p => .sample p false) (by simp) Config.rwActive armed rest
  simp [readCycleOps, plainEvent, pulsesFrom, Function.comp_def, hsamples, Config.rwIdle]

/-- A byte is one pulse in 8-bit mode and two in 4-bit mode (R110, R117). -/
theorem pulsesFrom_readByteOps (r : OpenRegs) (armed : Level) (es : List Event) :
    pulsesFrom r.cfg.rw.toNat Config.rwActive armed ((readByteOps r).map plainEvent ++ es) =
      cyclesPerByte r + pulsesFrom r.cfg.rw.toNat Config.rwActive false es := by
  cases h : r.w4
  all_goals simp [readByteOps, cyclesPerByte, h, pulsesFrom_readCycleOps, ← Nat.add_assoc]

/-- The bytes of a frame: as many pulses for every byte (R117). -/
theorem pulsesFrom_replicate_readByteOps (r : OpenRegs) (n : Nat) (es : List Event) :
    pulsesFrom r.cfg.rw.toNat Config.rwActive false ((List.replicate n (readByteOps r)).flatten.map plainEvent ++ es) =
      cyclesPerByte r * n + pulsesFrom r.cfg.rw.toNat Config.rwActive false es := by
  induction n with
  | zero => simp
  | succ n ih =>
    rw [List.replicate_succ, List.flatten_cons, List.map_append, List.append_assoc, pulsesFrom_readByteOps, ih,
      Nat.mul_succ]
    omega

/-- The pulses on RW in a frame are those of its bytes (R111, R117). -/
theorem pulses_frameRead {r : OpenRegs} {rsLevel : Level} {n : Nat} {es : List Event} {data : List Byte} {s t : State}
    (h : FrameRead r rsLevel n es data s t) (hrs : r.cfg.rs.toNat ≠ r.cfg.rw.toNat) :
    pulses r.cfg.rw.toNat Config.rwActive es = cyclesPerByte r * n := by
  have hmodes (m : PadMode) (rest : List Event) := pulsesFrom_append (p := r.cfg.rw.toNat)
    (es := (dataPins r).map fun p => .mode p m) (by simp) Config.rwActive false rest
  have hend := hmodes .out []
  rw [pulses, pulsesFrom_eq_of_microOp, h.ops, readFrameOps]
  simp only [List.cons_append, List.map_cons, List.map_append, List.map_map, List.append_assoc]
  rw [show plainEvent (.write r.cfg.rs.toNat rsLevel) = .write r.cfg.rs.toNat rsLevel from rfl,
    pulsesFrom_write_ne hrs]
  simp only [Function.comp_def, plainEvent]
  rw [hmodes, pulsesFrom_replicate_readByteOps, ← List.append_nil ((dataPins r).map _), hend]
  rfl

/-! ### The obligations -/

/-- Settles O34. -/
theorem readsOnAWriteOnlyBusTouchNothing : Obligations.ReadsOnAWriteOnlyBusTouchNothing :=
  fun _ _ hlife hread => ⟨exec_rdb_of_writeOnly hlife hread, exec_rdr_of_writeOnly hlife hread⟩

/-- Settles O29: the frame of `count` bytes at the data level. -/
theorem rdbReadsEveryByteInOrder : Obligations.RdbReadsEveryByteInOrder := by
  refine ⟨fun s count hlife => exec_rdb_of_closed hlife count,
    fun s r count hlife hread => exec_rdb_of_writeOnly hlife hread count, fun s r count hlife hread => ?_⟩
  obtain ⟨es, data, h⟩ := frameRead_readAnswer (.rdb count) r Config.rsDataLevel count s
  obtain ⟨-, -, -, -, hcnt⟩ := readAnswer_counters (.rdb count) r Config.rsDataLevel count s
  have hresponses := readAnswer_responses (.rdb count) r Config.rsDataLevel count s
  rw [h.rdata] at hresponses
  exact ⟨_, es, data, exec_rdb_of_readable hlife hread count, h.trace, h.ops, rfl, hresponses, h.length, h.bits,
    readFrame_readAnswer .., dir_readAnswer .., hcnt, h.rdata, h.rxb⟩

/-- Settles O30: the frame of one byte at the command level. -/
theorem rdrReadsTheStatusByte : Obligations.RdrReadsTheStatusByte := by
  refine ⟨fun s hlife => exec_rdr_of_closed hlife, fun s r hlife hread => exec_rdr_of_writeOnly hlife hread,
    fun s r hlife hread => ?_⟩
  obtain ⟨es, data, h⟩ := frameRead_readAnswer .rdr r Config.rsCmdLevel 1#32 s
  obtain ⟨-, -, -, -, hcnt⟩ := readAnswer_counters .rdr r Config.rsCmdLevel 1#32 s
  have hresponses := readAnswer_responses .rdr r Config.rsCmdLevel 1#32 s
  obtain ⟨b, rfl⟩ := List.length_eq_one_iff.mp h.length
  rw [h.rdata] at hresponses
  have hbits : ∀ i, i < 8 → b.getLsbD i = (samples es).getD (bitPlace r.w4 i) false := fun i hi => by
    simpa using h.bits 0 i Nat.one_pos hi
  exact ⟨_, es, b, exec_rdr_of_readable hlife hread, h.trace, h.ops, rfl, hresponses, hbits,
    readFrame_readAnswer .., dir_readAnswer .., hcnt, h.rdata, h.rxb⟩

/-- Settles O33: without bytes a frame is its two turns of the bus. -/
theorem emptyRdbPerformsTheFrameOnly : Obligations.EmptyRdbPerformsTheFrameOnly := by
  intro s r hlife hread
  refine ⟨_, exec_rdb_of_readable hlife hread 0#32, ?_, ?_, ?_, ?_, rfl, ?_⟩
  · refine (trace_readFrame r Config.rsDataLevel 0#32 _).trans ?_
    change (frameStart r Config.rsDataLevel 0#32 _).trace ++ _ = _
    rw [trace_frameStart, List.append_assoc]
    rfl
  · refine (readFrame_eq_readBytes r Config.rsDataLevel 0#32 _ State.tmin (fun _ _ _ => rfl) fun _ _ => rfl).trans ?_
    exact frameStart_same r _ _ _ State.tmin (fun _ _ _ => rfl) (fun _ _ _ => rfl) fun _ => rfl
  · obtain ⟨-, -, -, hnRw, -⟩ := readAnswer_counters (.rdb 0#32) r Config.rsDataLevel 0#32 s
    exact hnRw
  · obtain ⟨-, -, hdraws, -⟩ := readAnswer_counters (.rdb 0#32) r Config.rsDataLevel 0#32 s
    exact hdraws
  · obtain ⟨es, data, h⟩ := frameRead_readAnswer (.rdb 0#32) r Config.rsDataLevel 0#32 s
    rw [readAnswer_responses, h.rdata, List.length_eq_zero_iff.mp h.length]

/-- Settles O32: both reads leave the bus as their frame does. -/
theorem readsRestoreTheBus : Obligations.ReadsRestoreTheBus :=
  fun _ _ hlife hinv hread =>
    ⟨fun count => ⟨_, exec_rdb_of_readable hlife hread count, bus_readAnswer hinv hread ..⟩,
      ⟨_, exec_rdr_of_readable hlife hread, bus_readAnswer hinv hread ..⟩⟩

/-- Settles O36: the counter and the events of the frame agree. -/
theorem readsPulseOncePerCycle : Obligations.ReadsPulseOncePerCycle := by
  refine ⟨fun s r count hlife hinv hread => ?_, fun s r hlife hinv hread => ?_, fun s i hturned hi => ?_⟩
  · obtain ⟨es, data, h⟩ := frameRead_readAnswer (.rdb count) r Config.rsDataLevel count s
    obtain ⟨-, hnEw, -, hnRw, -⟩ := readAnswer_counters (.rdb count) r Config.rsDataLevel count s
    exact ⟨_, es, exec_rdb_of_readable hlife hread count, h.trace, hnRw, pulses_frameRead h (rs_ne_rw hinv hread),
      hnEw⟩
  · obtain ⟨es, data, h⟩ := frameRead_readAnswer .rdr r Config.rsCmdLevel 1#32 s
    obtain ⟨-, hnEw, -, hnRw, -⟩ := readAnswer_counters .rdr r Config.rsCmdLevel 1#32 s
    have hpulses := pulses_frameRead h (rs_ne_rw hinv hread)
    rw [show (1#32).toNat = 1 from rfl, Nat.mul_one] at hnRw hpulses
    exact ⟨_, es, exec_rdr_of_readable hlife hread, h.trace, hnRw, hpulses, hnEw⟩
  · obtain hlife | ⟨r, hlife, hread⟩ := hturned <;> obtain rfl | ⟨count, rfl⟩ := hi
    · exact ⟨_, exec_rdr_of_closed hlife, rfl, rfl⟩
    · exact ⟨_, exec_rdb_of_closed hlife count, rfl, rfl⟩
    · exact ⟨_, exec_rdr_of_writeOnly hlife hread, rfl, rfl⟩
    · exact ⟨_, exec_rdb_of_writeOnly hlife hread count, rfl, rfl⟩

end Sys2Proof.Proofs.Read
end

section
/-! PROOFS. The round trip on the loop-back fixture (43_read.md R119): what the fixture stores of the bytes written, and
what it drives to the samples of a read. -/

namespace Sys2Proof.Proofs.LoopBack

open Sys2Proof.Machine Sys2Proof.Claims Sys2Proof.Laws Sys2Proof.Proofs.Lifecycle Sys2Proof.Proofs.Write
  Sys2Proof.Proofs.Read

/-! ### Bytes and nibbles on the lines -/

/-- The byte on eight lines that carry its bits (R38). -/
theorem byteOfLevels_eq {level : Fin 8 → Level} {b : Byte} (h : ∀ i, level i = b.getLsbD i.val) :
    byteOfLevels level = b := by
  refine BitVec.eq_of_getLsbD_eq fun i hi => ?_
  simp only [byteOfLevels, h, BitVec.getLsbD_append]
  interval_cases i <;> simp

/-- The nibble on four lines that carry its bits (R39). -/
theorem nibbleOfLevels_eq {level : Fin 8 → Level} {n : Nibble} (h : ∀ j : Fin 4, level (j.natAdd 4) = n.getLsbD j.val) :
    nibbleOfLevels level = n := by
  refine BitVec.eq_of_getLsbD_eq fun i hi => ?_
  have h0 : level 4 = n.getLsbD 0 := h 0
  have h1 : level 5 = n.getLsbD 1 := h 1
  have h2 : level 6 = n.getLsbD 2 := h 2
  have h3 : level 7 = n.getLsbD 3 := h 3
  simp only [nibbleOfLevels, h0, h1, h2, h3, BitVec.getLsbD_append]
  interval_cases i <;> simp

theorem hiNibble_append_loNibble (b : Byte) : hiNibble b ++ loNibble b = b := by
  refine BitVec.eq_of_getLsbD_eq fun i hi => ?_
  simp only [hiNibble, loNibble, BitVec.getLsbD_append, BitVec.getLsbD_extractLsb']
  interval_cases i <;> simp

/-! ### The fixture on an edge (spec/95 section 3) -/

section Fixture

variable {f : LoopBack} {wire : Nat → Level}

section Edges

variable {c : BusConfig} (hwiring : f.wiring = c) (was : Level) (wire : Nat → Level)

include hwiring

/-- A write to a pin that is no strobe is no edge. -/
theorem fixtureAfterWrite_other {p : Nat} (hew : p ≠ gpio c .ew) (hrw : p ≠ gpio c .rw) (v : Level) :
    fixtureAfterWrite f was wire p v = f := by
  simp [fixtureAfterWrite, hwiring, hew, hrw]

theorem fixtureAfterWrite_ewIdle :
    fixtureAfterWrite f Config.ewActive wire (gpio c .ew) Config.ewIdle = fixtureWriteEdge f wire := by
  simp [fixtureAfterWrite, hwiring]

variable (hne : gpio c .ew ≠ gpio c .rw)

include hne

theorem fixtureAfterWrite_ewActive : fixtureAfterWrite f was wire (gpio c .ew) Config.ewActive = f := by
  simp [fixtureAfterWrite, hwiring, hne, Config.ewIdle]

theorem fixtureAfterWrite_rwActive :
    fixtureAfterWrite f was wire (gpio c .rw) Config.rwActive = fixtureReadEdge f wire := by
  simp [fixtureAfterWrite, hwiring, hne.symm]

theorem fixtureAfterWrite_rwIdle :
    fixtureAfterWrite f was wire (gpio c .rw) Config.rwIdle = { f with drv := none } := by
  simp [fixtureAfterWrite, hwiring, hne.symm, Config.rwIdle]

end Edges

/-- A trailing edge changes neither the wiring nor the width of the fixture. -/
theorem fixtureWriteEdge_built (f : LoopBack) (wire : Nat → Level) :
    (fixtureWriteEdge f wire).wiring = f.wiring ∧ (fixtureWriteEdge f wire).w4 = f.w4 := by
  simp only [fixtureWriteEdge, fixtureTake]
  split
  · split
    · exact ⟨rfl, rfl⟩
    · split <;> exact ⟨rfl, rfl⟩
  · split <;> exact ⟨rfl, rfl⟩

/-- In 8-bit mode a trailing edge of the write strobe stores the byte on the data lines. -/
theorem fixtureWriteEdge_byte {b : Byte} (hw : f.w4 = false) (hrs : wire (gpio f.wiring .rs) = Config.rsDataLevel)
    (hdata : ∀ i, wire (gpio f.wiring (.d i)) = b.getLsbD i.val) :
    fixtureWriteEdge f wire = { f with fifo := f.fifo ++ [b] } := by
  simp [fixtureWriteEdge, hw, fixtureTake, hrs, byteOfLevels_eq hdata]

/-- In 4-bit mode the first trailing edge keeps the high nibble. -/
theorem fixtureWriteEdge_high {n : Nibble} (hw : f.w4 = true) (hwn : f.wn = none)
    (hdata : ∀ j : Fin 4, wire (gpio f.wiring (.d (j.natAdd 4))) = n.getLsbD j.val) :
    fixtureWriteEdge f wire = { f with wn := some n } := by
  simp [fixtureWriteEdge, hw, hwn, nibbleOfLevels_eq (level := fun i => wire (gpio f.wiring (.d i))) hdata]

/-- In 4-bit mode the second trailing edge stores the byte of both nibbles. -/
theorem fixtureWriteEdge_low {m n : Nibble} (hw : f.w4 = true) (hwn : f.wn = some m)
    (hrs : wire (gpio f.wiring .rs) = Config.rsDataLevel)
    (hdata : ∀ j : Fin 4, wire (gpio f.wiring (.d (j.natAdd 4))) = n.getLsbD j.val) :
    fixtureWriteEdge f wire = { f with wn := none, fifo := f.fifo ++ [m ++ n] } := by
  simp [fixtureWriteEdge, hw, hwn, fixtureTake, hrs,
    nibbleOfLevels_eq (level := fun i => wire (gpio f.wiring (.d i))) hdata]

/-- The leading edge of the read strobe with RS at the data level. -/
def dataReadEdge (f : LoopBack) : LoopBack := fixtureReadEdge f fun _ => Config.rsDataLevel

/-- A leading edge reads RS and no other line. -/
theorem fixtureReadEdge_of_rs (hrs : wire (gpio f.wiring .rs) = Config.rsDataLevel) :
    fixtureReadEdge f wire = dataReadEdge f := by
  simp only [dataReadEdge, fixtureReadEdge, hrs]

/-- An edge changes neither the wiring nor the width of the fixture. -/
theorem dataReadEdge_built (f : LoopBack) : (dataReadEdge f).wiring = f.wiring ∧ (dataReadEdge f).w4 = f.w4 := by
  simp only [dataReadEdge, fixtureReadEdge]
  split
  · split
    · split <;> exact ⟨rfl, rfl⟩
    · exact ⟨rfl, rfl⟩
  · split <;> exact ⟨rfl, rfl⟩

variable {b : Byte} {bs : List Byte}

/-- In 8-bit mode a data read drives the byte at the head of the store. -/
theorem dataReadEdge_byte (hw : f.w4 = false) (hfifo : f.fifo = b :: bs) : dataReadEdge f =
    { f with fifo := bs, drv := fixtureDrive f [0, 1, 2, 3, 4, 5, 6, 7] fun i => b.getLsbD i.val } := by
  simp [dataReadEdge, fixtureReadEdge, hw, fixtureChoose, hfifo]

/-- In 4-bit mode the first edge of a data read drives the high nibble of the byte at the head of the store. -/
theorem dataReadEdge_high (hw : f.w4 = true) (hrn : f.rn = none) (hfifo : f.fifo = b :: bs) : dataReadEdge f =
    { f with fifo := bs, rn := some b, drv := fixtureDrive f [4, 5, 6, 7] fun i => b.getLsbD i.val } := by
  simp [dataReadEdge, fixtureReadEdge, hw, hrn, fixtureChoose, hfifo]

/-- In 4-bit mode the second edge drives the low nibble. -/
theorem dataReadEdge_low (hw : f.w4 = true) (hrn : f.rn = some b) : dataReadEdge f =
    { f with rn := none, drv := fixtureDrive f [4, 5, 6, 7] fun i => b.getLsbD (i.val - 4) } := by
  simp [dataReadEdge, fixtureReadEdge, hw, hrn]

end Fixture

/-! ### The fixture on the bus -/

/-- The fixture `f`, built for the configuration and width of `r`, is on the bus. -/
structure Attached (r : OpenRegs) (f : LoopBack) (s : State) : Prop where
  dev : s.dev = .loopBack f
  wiring : f.wiring = r.cfg
  w4 : f.w4 = r.w4

/-- The fixture sees each write, with the latch before it and the levels after it (R77). -/
theorem dev_doWrite {f : LoopBack} {s : State} (hdev : s.dev = .loopBack f) (p : Nat) (v : Level) :
    (doWrite p v s).dev =
      .loopBack (fixtureAfterWrite f (s.pad p).latch (s.setPad p { s.pad p with latch := v }).level p v) := by
  simp [deviceAfterWrite, hdev]

/-- An output is at its latch (R26). -/
theorem level_of_out {s : State} {p : Nat} (h : (s.pad p).mode = .out) : s.level p = (s.pad p).latch := by
  simp [State.level, h]

/-- A program that writes no strobe leaves the fixture as it was. -/
theorem Attached.runStmts_of_noStrobe {r : OpenRegs} {f : LoopBack} {s : State} {prog : List Stmt}
    (h : Attached r f s) (hn : NoCheck prog)
    (hoff : ∀ p v, .op (.write p v) ∈ prog → p ≠ gpio r.cfg .ew ∧ p ≠ gpio r.cfg .rw) :
    Attached r f (runStmts prog s) := by
  refine ⟨runStmts_keeps (fun s => s.dev = .loopBack f) hn (fun m hm s hs => ?_) s h.dev, h.wiring, h.w4⟩
  cases m with
  | op o =>
    cases o with
    | write p v =>
      obtain ⟨hew, hrw⟩ := hoff p v hm
      exact (dev_doWrite hs p v).trans (congrArg _ (fixtureAfterWrite_other h.wiring _ _ hew hrw v))
    | _ => exact hs
  | _ => exact hs

/-! ### Bytes written -/

/-- The state in which a write cycle ends its strobe: setup, leading edge, clock width (R98). -/
def writeStrobed (c : BusConfig) (s : State) : State :=
  doDelay (delayNs c.tClk) (doWrite (gpio c .ew) Config.ewActive (doDelay (delayNs c.tSu) s))

section Parts

variable {r : OpenRegs} (rsLevel : Level) (b : Byte) (s : State)

/-- In 8-bit mode a byte is its data lines and one cycle (R96, R100). -/
theorem runStmts_busWrite8 (hw : r.w4 = false) : runStmts (busWrite r rsLevel b) s =
    runStmts (driveData8 r.cfg b ++ writeCycle r.cfg)
      (runStmts [.loadTxb b, .op (.write (gpio r.cfg .rs) rsLevel)] s) := by
  rw [busWrite, hw]
  rfl

/-- In 4-bit mode a byte is its two nibbles with a cycle each (R97, R100). -/
theorem runStmts_busWrite4 (hw : r.w4 = true) : runStmts (busWrite r rsLevel b) s =
    runStmts (driveData4 r.cfg (loNibble b) ++ writeCycle r.cfg) (performStmt (.setPhase true)
      (runStmts (driveData4 r.cfg (hiNibble b) ++ writeCycle r.cfg) (performStmt (.setPhase false)
        (runStmts [.loadTxb b, .op (.write (gpio r.cfg .rs) rsLevel)] s)))) := by
  rw [busWrite, hw]
  rfl

end Parts

/-- What a write cycle's trailing edge finds on a pin. -/
def edgeWire (c : BusConfig) (s : State) : Nat → Level :=
  ((writeStrobed c s).setPad (gpio c .ew) { (writeStrobed c s).pad (gpio c .ew) with latch := Config.ewIdle }).level

/-- An output but EW is at the latch it had before the cycle. -/
theorem edgeWire_of_out {c : BusConfig} {s : State} {p : Nat} (hew : p ≠ gpio c .ew) (hout : (s.pad p).mode = .out) :
    edgeWire c s p = (s.pad p).latch := by
  have hpad : ((writeStrobed c s).setPad (gpio c .ew)
      { (writeStrobed c s).pad (gpio c .ew) with latch := Config.ewIdle }).pad p = s.pad p := by
    simp [pad_setPad, hew, writeStrobed, pad_doWrite]
  rw [edgeWire, level_of_out (hpad ▸ hout), hpad]

/-- While data is driven (R96 to R98): every line is an output, and RS selects the data register. -/
structure Driving (r : OpenRegs) (f : LoopBack) (s : State) : Prop extends Attached r f s where
  out : ∀ l ∈ lines r.w4 r.canRead, (s.pad (gpio r.cfg l)).mode = .out
  rs : (s.pad (gpio r.cfg .rs)).latch = Config.rsDataLevel

theorem Driving.setPhase {r : OpenRegs} {f : LoopBack} {s : State} (h : Driving r f s) (low : Bool) :
    Driving r f (performStmt (.setPhase low) s) :=
  ⟨⟨h.dev, h.wiring, h.w4⟩, h.out, h.rs⟩

/-- Between bytes written: no byte is half taken, and every line is an output. -/
structure Ready (r : OpenRegs) (f : LoopBack) (s : State) : Prop extends Attached r f s where
  wn : f.wn = none
  out : ∀ l ∈ lines r.w4 r.canRead, (s.pad (gpio r.cfg l)).mode = .out

section Write

variable {r : OpenRegs} {s₀ : State} (hinv : OpenInv r s₀) (hread : r.canRead = true) {f : LoopBack} {s : State}

include hinv hread

/-- A write cycle is one trailing edge to the fixture (R98). -/
theorem dev_writeCycle (h : Attached r f s) :
    (runStmts (writeCycle r.cfg) s).dev = .loopBack (fixtureWriteEdge f (edgeWire r.cfg s)) := by
  have hlt := gpio_lt_of_openInv hinv (ew_mem_lines _ _)
  have hne := ew_ne_rw hinv hread
  have hdev : (writeStrobed r.cfg s).dev = .loopBack f :=
    (dev_doWrite h.dev _ _).trans (congrArg _ (fixtureAfterWrite_ewActive h.wiring _ _ hne))
  have hwas : ((writeStrobed r.cfg s).pad (gpio r.cfg .ew)).latch = Config.ewActive := by
    simp [writeStrobed, pad_doWrite, hlt]
  change (doWrite (gpio r.cfg .ew) Config.ewIdle (writeStrobed r.cfg s)).dev = _
  rw [dev_doWrite hdev, hwas, fixtureAfterWrite_ewIdle h.wiring]
  rfl

/-- Data lines driven are at their levels, and the fixture takes no notice (R96, R97). -/
theorem Driving.driveLines (h : Driving r f s) {ls : List (Fin 8)} (hls : ∀ i ∈ ls, .d i ∈ dataLines r.w4)
    (level : Fin 8 → Level) {prog : List Stmt}
    (hprog : prog = ls.map fun i => .op (.write (gpio r.cfg (.d i)) (level i))) :
    Driving r f (runStmts prog s) ∧
      ∀ i ∈ ls, ((runStmts prog s).pad (gpio r.cfg (.d i))).latch = level i := by
  have hnocheck : NoCheck prog := by intro undo; simp [hprog]
  have hwrites {p : Nat} {v : Level} (hm : .op (.write p v) ∈ prog) : ∃ i ∈ ls, p = gpio r.cfg (.d i) := by
    rw [hprog] at hm
    obtain ⟨i, hi, hp⟩ := List.mem_map.mp hm
    cases hp
    exact ⟨i, hi, rfl⟩
  refine ⟨⟨h.runStmts_of_noStrobe hnocheck fun p v hm => ?_, fun l hl => ?_, ?_⟩, fun i hi => ?_⟩
  · obtain ⟨i, hi, rfl⟩ := hwrites hm
    exact ⟨data_ne_ew hinv (hls i hi), data_ne_rw hinv hread (hls i hi)⟩
  · rw [mode_runStmts hnocheck s (gpio_lt_of_openInv hinv hl), modeAfter_same (by simp [hprog]), h.out l hl]
  · rw [latch_runStmts hnocheck s (gpio_lt_of_openInv hinv (rs_mem_lines _ _)), latchAfter_same, h.rs]
    intro v hm
    obtain ⟨i, hi, hp⟩ := hwrites hm
    exact rs_ne_data hinv (hls i hi) hp
  · have hinj : ∀ j ∈ ls, gpio r.cfg (.d i) = gpio r.cfg (.d j) ↔ i = j :=
      fun j hj => data_inj hinv (hls i hi) (hls j hj)
    rw [latch_runStmts hnocheck s (gpio_lt_of_openInv hinv (mem_lines_of_data (hls i hi) _)), hprog,
      latchAfter_map_write r.cfg level hinj, if_pos hi]

/-- A write cycle leaves the lines as they were driven (R98). -/
theorem Driving.strobe (h : Driving r f s) :
    Driving r (fixtureWriteEdge f (edgeWire r.cfg s)) (runStmts (writeCycle r.cfg) s) := by
  have hnocheck : NoCheck (writeCycle r.cfg) := by intro undo; simp [writeCycle]
  obtain ⟨hwiring, hw4⟩ := fixtureWriteEdge_built f (edgeWire r.cfg s)
  refine ⟨⟨dev_writeCycle hinv hread h.toAttached, hwiring.trans h.wiring, hw4.trans h.w4⟩, fun l hl => ?_, ?_⟩
  · rw [mode_runStmts hnocheck s (gpio_lt_of_openInv hinv hl), modeAfter_same (by simp [writeCycle]),
      h.out l hl]
  · rw [latch_runStmts hnocheck s (gpio_lt_of_openInv hinv (rs_mem_lines _ _)),
      latchAfter_writeCycle (rs_ne_ew hinv), h.rs]

/-- Data lines driven and then a write cycle: the fixture finds RS at the data level and the lines as driven. -/
theorem Driving.cycle (h : Driving r f s) {ls : List (Fin 8)} (hls : ∀ i ∈ ls, .d i ∈ dataLines r.w4)
    (level : Fin 8 → Level) {prog : List Stmt}
    (hprog : prog = ls.map fun i => .op (.write (gpio r.cfg (.d i)) (level i))) :
    ∃ wire, Driving r (fixtureWriteEdge f wire) (runStmts (prog ++ writeCycle r.cfg) s) ∧
      wire (gpio f.wiring .rs) = Config.rsDataLevel ∧ ∀ i ∈ ls, wire (gpio f.wiring (.d i)) = level i := by
  obtain ⟨hdriven, hlatch⟩ := h.driveLines hinv hread hls level hprog
  rw [runStmts_append (by intro undo; simp [hprog]), h.wiring]
  refine ⟨_, hdriven.strobe hinv hread, ?_, fun i hi => ?_⟩
  · rw [edgeWire_of_out (rs_ne_ew hinv) (hdriven.out _ (rs_mem_lines _ _)), hdriven.rs]
  · rw [edgeWire_of_out (data_ne_ew hinv (hls i hi)) (hdriven.out _ (mem_lines_of_data (hls i hi) _)), hlatch i hi]

/-- In 8-bit mode one cycle stores a byte (R96, R100). -/
theorem Driving.byte (h : Driving r f s) (hw : r.w4 = false) (b : Byte) :
    Driving r { f with fifo := f.fifo ++ [b] } (runStmts (driveData8 r.cfg b ++ writeCycle r.cfg) s) := by
  obtain ⟨wire, hdriving, hrs, hdata⟩ := h.cycle hinv hread (fun i _ => data_mem_of_width8 hw i) _
    (rfl : driveData8 r.cfg b = _)
  rwa [fixtureWriteEdge_byte (h.w4.trans hw) hrs fun i => hdata i (index8_mem i)] at hdriving

/-- A nibble driven is found on `D4` to `D7` (R97). -/
theorem Driving.nibble (h : Driving r f s) (hw : r.w4 = true) (n : Nibble) :
    ∃ wire, Driving r (fixtureWriteEdge f wire) (runStmts (driveData4 r.cfg n ++ writeCycle r.cfg) s) ∧
      wire (gpio f.wiring .rs) = Config.rsDataLevel ∧
      ∀ j : Fin 4, wire (gpio f.wiring (.d (j.natAdd 4))) = n.getLsbD j.val := by
  obtain ⟨wire, hdriving, hrs, hdata⟩ := h.cycle hinv hread (fun i hi => data_mem_of_width4 hw hi) _
    (rfl : driveData4 r.cfg n = _)
  refine ⟨wire, hdriving, hrs, fun j => ?_⟩
  rw [hdata _ (index4_mem j), Fin.val_natAdd, Nat.add_sub_cancel_left]

/-- In 4-bit mode two cycles store a byte, the high nibble first (R97, R100). -/
theorem Driving.nibbles (h : Driving r f s) (hwn : f.wn = none) (hw : r.w4 = true) (b : Byte) :
    Driving r { f with fifo := f.fifo ++ [b] }
      (runStmts (driveData4 r.cfg (loNibble b) ++ writeCycle r.cfg) (performStmt (.setPhase true)
        (runStmts (driveData4 r.cfg (hiNibble b) ++ writeCycle r.cfg) s))) := by
  obtain ⟨wire, hfirst, -, hdata⟩ := h.nibble hinv hread hw (hiNibble b)
  rw [fixtureWriteEdge_high (h.w4.trans hw) hwn hdata] at hfirst
  obtain ⟨wire', hsecond, hrs, hdata'⟩ := (hfirst.setPhase true).nibble hinv hread hw (loNibble b)
  rw [fixtureWriteEdge_low (f := { f with wn := some (hiNibble b) }) (h.w4.trans hw) rfl hrs hdata',
    hiNibble_append_loNibble] at hsecond
  rwa [← hwn] at hsecond

/-- A byte written at the data level is stored by the fixture (R100). -/
theorem Ready.byteWritten (h : Ready r f s) (b : Byte) :
    Ready r { f with fifo := f.fifo ++ [b] } (runStmts (busWrite r Config.rsDataLevel b) s) := by
  have hnocheck : NoCheck [.loadTxb b, .op (.write (gpio r.cfg .rs) Config.rsDataLevel)] := by intro undo; simp
  have hstart : Driving r f
      (runStmts [.loadTxb b, .op (.write (gpio r.cfg .rs) Config.rsDataLevel)] s) := by
    refine ⟨h.runStmts_of_noStrobe hnocheck ?_, fun l hl => ?_, ?_⟩
    · simp [rs_ne_ew hinv, rs_ne_rw hinv hread]
    · rw [mode_runStmts hnocheck s (gpio_lt_of_openInv hinv hl), modeAfter_same (by simp), h.out l hl]
    · rw [latch_runStmts hnocheck s (gpio_lt_of_openInv hinv (rs_mem_lines _ _))]
      simp [latchAfter]
  have hdriving : Driving r { f with fifo := f.fifo ++ [b] } (runStmts (busWrite r Config.rsDataLevel b) s) := by
    cases hw : r.w4
    · rw [runStmts_busWrite8 _ _ _ hw]
      exact hstart.byte hinv hread hw b
    · rw [runStmts_busWrite4 _ _ _ hw]
      exact (hstart.setPhase false).nibbles hinv hread h.wn hw b
  exact ⟨hdriving.toAttached, h.wn, hdriving.out⟩

/-- A block written at the data level is stored in order (R103). -/
theorem Ready.bytesWritten (h : Ready r f s) (bytes : List Byte) :
    Ready r { f with fifo := f.fifo ++ bytes } (runStmts (writeBytes r bytes) s) := by
  induction bytes generalizing f s with
  | nil => rwa [List.append_nil]
  | cons b bytes ih =>
    have hbyte := h.byteWritten hinv hread b
    have hcount : Ready r _ (performStmt .countDown _) := ⟨⟨hbyte.dev, hbyte.wiring, hbyte.w4⟩, hbyte.wn, hbyte.out⟩
    have hrest := ih hcount
    rw [List.append_assoc] at hrest
    rw [runStmts_writeBytes_cons]
    exact hrest

end Write

/-! ### Bytes read -/

/-- Samples that each find their line's level (R109). -/
theorem lineLevels_eq_map {c : BusConfig} {s : State} {ls : List (Fin 8)} {bit : Fin 8 → Level}
    (h : ∀ k, ∀ i ∈ ls, levelAt s k (gpio c (.d i)) = bit i) (k : Nat) : lineLevels c s k ls = ls.map bit := by
  induction ls generalizing k with
  | nil => rfl
  | cons i ls ih =>
    rw [lineLevels, h k i List.mem_cons_self, ih fun k j hj => h k j (List.mem_cons_of_mem _ hj)]
    rfl

/-- The level that the fixture drives on a line whose pin no other line has. -/
theorem lookup_lines {c : BusConfig} {i : Fin 8} {ls : List (Fin 8)} {bit : Fin 8 → Level}
    (hinj : ∀ j ∈ ls, gpio c (.d i) = gpio c (.d j) ↔ i = j) (hi : i ∈ ls) :
    (ls.map fun j => (gpio c (.d j), bit j)).lookup (gpio c (.d i)) = some (bit i) := by
  induction ls with
  | nil => cases hi
  | cons j ls ih =>
    obtain ⟨hj, hls⟩ := List.forall_mem_cons.mp hinj
    by_cases hij : i = j
    · subst hij
      simp
    · have hne : (gpio c (.d i) == gpio c (.d j)) = false := by simp [hj, hij]
      rw [List.map_cons, List.lookup_cons, hne]
      exact ih hls ((List.mem_cons.mp hi).resolve_left hij)

/-- Inside a data read frame (R111): the data lines are inputs, and RS is driven to the data level. -/
structure Reading (r : OpenRegs) (f : LoopBack) (s : State) : Prop extends Attached r f s where
  inp : ∀ l ∈ dataLines r.w4, (s.pad (gpio r.cfg l)).mode = .inp
  rs_out : (s.pad (gpio r.cfg .rs)).mode = .out
  rs : (s.pad (gpio r.cfg .rs)).latch = Config.rsDataLevel

section Read

variable {r : OpenRegs} {s₀ : State} (hinv : OpenInv r s₀) (hread : r.canRead = true) {f : LoopBack} {s : State}

theorem Reading.setPhase (h : Reading r f s) (low : Bool) : Reading r f (performStmt (.setPhase low) s) :=
  ⟨⟨h.dev, h.wiring, h.w4⟩, h.inp, h.rs_out, h.rs⟩

include hinv

/-- What the fixture drives on the data lines is what samples of them find (R26, R78). -/
theorem Reading.lineLevels (h : Reading r f s) {ls : List (Fin 8)} (hls : ∀ i ∈ ls, .d i ∈ dataLines r.w4)
    {bit : Fin 8 → Level} (hdrv : f.drv = some (ls.map fun i => (gpio r.cfg (.d i), bit i))) :
    lineLevels r.cfg s 0 ls = ls.map bit := by
  refine lineLevels_eq_map (fun k i hi => ?_) 0
  have hinj : ∀ j ∈ ls, gpio r.cfg (.d i) = gpio r.cfg (.d j) ↔ i = j :=
    fun j hj => data_inj hinv (hls i hi) (hls j hj)
  simp [levelAt, h.inp _ (hls i hi), driven, h.dev, hdrv, lookup_lines hinj hi]

include hread

/-- A state that differs on the pad of RW alone, with the fixture `g` on the bus, is inside the frame too. -/
theorem Reading.of_rw {g : LoopBack} {t : State} (h : Reading r f s) (hdev : Attached r g t)
    (hpad : ∀ p, p ≠ gpio r.cfg .rw → t.pad p = s.pad p) : Reading r g t := by
  have hrs := hpad _ (rs_ne_rw hinv hread)
  exact ⟨hdev, fun l hl => by rw [hpad _ (data_ne_rw hinv hread hl), h.inp l hl], hrs ▸ h.rs_out, hrs ▸ h.rs⟩

/-- The leading edge of a read cycle (R108). -/
theorem Reading.strobed (h : Reading r f s) : Reading r (dataReadEdge f) (strobed r.cfg s) := by
  obtain ⟨hwiring, hw4⟩ := dataReadEdge_built f
  refine h.of_rw hinv hread ⟨?_, hwiring.trans h.wiring, hw4.trans h.w4⟩ fun p hp => ?_
  · have hne := rs_ne_rw hinv hread
    change (doWrite (gpio r.cfg .rw) Config.rwActive (doDelay (delayNs r.cfg.tSu) s)).dev = _
    rw [dev_doWrite (s := doDelay _ s) h.dev, fixtureAfterWrite_rwActive h.wiring _ _ (ew_ne_rw hinv hread),
      fixtureReadEdge_of_rs]
    rw [h.wiring, level_of_out]
    · simp [pad_setPad, hne, h.rs]
    · simp [pad_setPad, hne, h.rs_out]
  · simp [Laws.strobed, pad_doWrite, hp]

/-- A read cycle is a leading edge, its samples, and a trailing edge after which the fixture drives nothing (R108). -/
theorem Reading.cycle (h : Reading r f s) (ls : List (Fin 8)) (bit : Fin 8 → Nat) :
    Reading r { dataReadEdge f with drv := none } (runStmts (readCycle r.cfg ls bit) s) := by
  have hstrobed := h.strobed hinv hread
  obtain ⟨-, -, hpads, hdev, -⟩ := runStmts_sampleData r.cfg ls bit (Laws.strobed r.cfg s)
  rw [runStmts_readCycle]
  refine hstrobed.of_rw hinv hread ⟨?_, hstrobed.wiring, hstrobed.w4⟩ fun p hp => ?_
  · change (doWrite (gpio r.cfg .rw) Config.rwIdle _).dev = _
    rw [dev_doWrite (hdev.trans hstrobed.dev), fixtureAfterWrite_rwIdle hstrobed.wiring _ _ (ew_ne_rw hinv hread)]
  · change (doWrite (gpio r.cfg .rw) Config.rwIdle _).pad p = _
    simp [pad_doWrite, hp, pad_congr hpads]

/-- A byte read is the one at the head of the store: in 8-bit mode, by its eight lines (R110). -/
theorem Reading.byteLevels8 (h : Reading r f s) (hw : r.w4 = false) {b : Byte} {bs : List Byte}
    (hfifo : f.fifo = b :: bs) :
    byteLevels r s = [0, 1, 2, 3, 4, 5, 6, 7].map fun i : Fin 8 => b.getLsbD i.val := by
  have hstrobed := h.strobed hinv hread
  rw [dataReadEdge_byte (h.w4.trans hw) hfifo] at hstrobed
  rw [byteLevels, hw]
  exact hstrobed.lineLevels hinv (fun i _ => data_mem_of_width8 hw i) (by simp [fixtureDrive, h.wiring])

/-- The second cycle of a 4-bit byte starts with the byte half read (R110). -/
theorem Reading.secondCycle (h : Reading r f s) (hw : r.w4 = true) (hrn : f.rn = none) {b : Byte} {bs : List Byte}
    (hfifo : f.fifo = b :: bs) :
    Reading r { f with fifo := bs, rn := some b, drv := none } (secondCycle r s) := by
  have hcycle := (h.setPhase false).cycle hinv hread [4, 5, 6, 7] fun i => i.val
  rw [dataReadEdge_high (h.w4.trans hw) hrn hfifo] at hcycle
  exact hcycle.setPhase true

/-- In 4-bit mode the byte read is the one at the head of the store, its high nibble first (R110). -/
theorem Reading.byteLevels4 (h : Reading r f s) (hw : r.w4 = true) (hrn : f.rn = none) {b : Byte} {bs : List Byte}
    (hfifo : f.fifo = b :: bs) :
    byteLevels r s = ([4, 5, 6, 7].map fun i : Fin 8 => b.getLsbD i.val) ++
      [4, 5, 6, 7].map fun i : Fin 8 => b.getLsbD (i.val - 4) := by
  have hfirst := (h.setPhase false).strobed hinv hread
  rw [dataReadEdge_high (h.w4.trans hw) hrn hfifo] at hfirst
  have hmiddle := h.secondCycle hinv hread hw hrn hfifo
  have hsecond := hmiddle.strobed hinv hread
  rw [dataReadEdge_low (hmiddle.w4.trans hw) rfl] at hsecond
  have hlines : ∀ i ∈ [4, 5, 6, 7], .d i ∈ dataLines r.w4 := fun i hi => data_mem_of_width4 hw hi
  rw [byteLevels, hw]
  exact congrArg₂ (· ++ ·) (hfirst.lineLevels hinv hlines (by simp [fixtureDrive, h.wiring]))
    (hsecond.lineLevels hinv hlines (by simp [fixtureDrive, h.wiring]))

/-- `RXB` holds the byte that was at the head of the store (R109, R110). -/
theorem Reading.rxb (h : Reading r f s) (hrn : f.rn = none) {b : Byte} {bs : List Byte} (hfifo : f.fifo = b :: bs) :
    (runStmts (busRead r) s).rxb = b := by
  obtain ⟨-, -, -, -, hbits⟩ := rxb_busRead r s
  refine BitVec.eq_of_getLsbD_eq fun i hi => (hbits i hi).trans ?_
  cases hw : r.w4
  · rw [h.byteLevels8 hinv hread hw hfifo]
    interval_cases i <;> rfl
  · rw [h.byteLevels4 hinv hread hw hrn hfifo]
    interval_cases i <;> rfl

/-- A byte read is taken out of the store (R110). -/
theorem Reading.busRead (h : Reading r f s) (hrn : f.rn = none) {b : Byte} {bs : List Byte} (hfifo : f.fifo = b :: bs) :
    Reading r { f with fifo := bs, drv := none } (runStmts (busRead r) s) := by
  cases hw : r.w4
  · have hcycle := h.cycle hinv hread [0, 1, 2, 3, 4, 5, 6, 7] fun i => i.val
    rw [dataReadEdge_byte (h.w4.trans hw) hfifo] at hcycle
    rw [Machine.busRead, hw]
    exact hcycle
  · have hmiddle := h.secondCycle hinv hread hw hrn hfifo
    have hcycle := hmiddle.cycle hinv hread [4, 5, 6, 7] fun i => i.val - 4
    rw [dataReadEdge_low (hmiddle.w4.trans hw) rfl] at hcycle
    rw [runStmts_busRead4 r s hw]
    rwa [← hrn] at hcycle

/-- Reading as many bytes as the store holds returns them in order (R111). -/
theorem Reading.readBytes (h : Reading r f s) (hrn : f.rn = none) {bytes : List Byte} (hfifo : f.fifo = bytes) :
    (runStmts (readBytes r bytes.length) s).rdata = s.rdata ++ bytes := by
  induction bytes generalizing f s with
  | nil => simp [Machine.readBytes]
  | cons b bytes ih =>
    have hbyte := h.busRead hinv hread hrn hfifo
    have hnext : Reading r { f with fifo := bytes, drv := none }
        (performStmt .countDown (performStmt .takeByte (runStmts (Machine.busRead r) s))) :=
      ⟨⟨hbyte.dev, hbyte.wiring, hbyte.w4⟩, hbyte.inp, hbyte.rs_out, hbyte.rs⟩
    obtain ⟨-, hrdata, -⟩ := same_busRead r s
    rw [List.length_cons, runStmts_readBytes_succ, ih hnext hrn rfl]
    simp [performStmt, hrdata, h.rxb hinv hread hrn hfifo]

/-- A data read frame starts to read with the fixture as the writes left it (R111). -/
theorem Ready.frameStart (h : Ready r f s) (n : Word32) : Reading r f (frameStart r Config.rsDataLevel n s) := by
  have hnocheck : NoCheck (.op (.write (gpio r.cfg .rs) Config.rsDataLevel) :: turnLines r .inp) := by
    intro undo
    simp [turnLines]
  have hrs := gpio_lt_of_openInv hinv (rs_mem_lines r.w4 r.canRead)
  have hturned : Attached r f
      (runStmts (.op (.write (gpio r.cfg .rs) Config.rsDataLevel) :: turnLines r .inp) s) :=
    h.runStmts_of_noStrobe hnocheck (by simp [turnLines, rs_ne_ew hinv, rs_ne_rw hinv hread])
  refine ⟨⟨hturned.dev, h.wiring, h.w4⟩, fun l hl => ?_, ?_, ?_⟩
  · have hpin : gpio r.cfg l ∈ dataPins r := map_gpio_dataLines r ▸ List.mem_map_of_mem hl
    exact (mode_runStmts hnocheck s (dataPin_lt hinv hpin)).trans (modeAfter_turnLines r .inp hpin _)
  · refine (mode_runStmts hnocheck s hrs).trans ((modeAfter_same (fun m hm => ?_) _).trans (h.out _ (rs_mem_lines _ _)))
    obtain ⟨p, hp, heq⟩ := mem_turnLines ((List.mem_cons.mp hm).resolve_left nofun)
    cases heq
    exact dataPin_ne_rs hinv hp rfl
  · refine (latch_runStmts hnocheck s hrs).trans ?_
    rw [latchAfter, if_pos rfl, latchAfter_same (by simp [turnLines])]

/-- A data read of as many bytes as the fixture stores answers with them. -/
theorem Ready.rdata_readAnswer (h : Ready r f s) (hrn : f.rn = none) (i : Instr) {n : Word32}
    (hn : n.toNat = f.fifo.length) : (readAnswer i r Config.rsDataLevel n s).rdata = f.fifo := by
  have haccept : Ready r f (accept i (readFrame r Config.rsDataLevel n) s) :=
    ⟨⟨h.dev, h.wiring, h.w4⟩, h.wn, h.out⟩
  have hbytes := (haccept.frameStart hinv hread n).readBytes hinv hread hrn rfl
  rw [← hn] at hbytes
  exact (readFrame_eq_readBytes r _ n _ State.rdata (fun _ _ _ => rfl) fun _ _ => rfl).trans hbytes

end Read

/-! ### The obligation -/

/-- An open controller that meets the invariant is ready to write to the fixture. -/
theorem ready_of_openInv {r : OpenRegs} {f : LoopBack} {s : State} (hinv : OpenInv r s) (h : Attached r f s)
    (hwn : f.wn = none) : Ready r f s := by
  refine ⟨h, hwn, fun l hl => hinv.pads_out _ ?_⟩
  rw [hinv.owned_eq, configPins, pins, ← hinv.w4_eq, ← hinv.canRead_eq]
  exact List.mem_map_of_mem hl

/-- Settles O40: the fixture stores the block in order, and the frame reads its store. -/
theorem loopBackReturnsWhatWasWritten : Obligations.LoopBackReturnsWhatWasWritten := by
  intro s r f bytes hlife hinv hread hdev hwiring hw4 hfifo hwn hrn hlen
  have hready := ready_of_openInv hinv ⟨hdev, hwiring, hw4⟩ hwn
  have hload : Ready r f (performStmt (.loadCnt (BitVec.ofNat 32 bytes.length))
      (accept (.wrb bytes) (wrbProg r bytes) s)) := ⟨⟨hdev, hwiring, hw4⟩, hwn, hready.out⟩
  have hstored := hload.bytesWritten hinv hread bytes
  rw [← runProgram_wrb, hfifo, List.nil_append] at hstored
  have hopened : (succeed [] (runProgram (.wrb bytes) (wrbProg r bytes) s)).life = .opened r :=
    (runProgram_untouched _ _ s).life.trans hlife
  have hanswered : Ready r { f with fifo := bytes } (succeed [] (runProgram (.wrb bytes) (wrbProg r bytes) s)) :=
    ⟨⟨hstored.dev, hwiring, hw4⟩, hwn, hstored.out⟩
  refine ⟨_, _, exec_wrb_of_opened hlife bytes, exec_rdb_of_readable hopened hread _, ?_⟩
  rw [readAnswer_responses, hanswered.rdata_readAnswer hinv hread hrn _
    ((BitVec.toNat_ofNat ..).trans (Nat.mod_eq_of_lt hlen))]

end Sys2Proof.Proofs.LoopBack
end

section
/-! PROOFS. The statements of 45_host_facade.md: the aligned base of `set_cg_offset`, and the block
read `bulk_read`. -/

namespace Sys2Proof.Proofs.Facade

open Sys2Proof.Machine Sys2Proof.Laws Sys2Proof.Proofs.Encoding Sys2Proof.Proofs.Write Sys2Proof.Proofs.Read

/-! ### Addresses (R125, R140) -/

/-- Rounding down does not wrap: the word holds the rounded number itself (R125). -/
theorem toNat_alignDown (addr : BitVec 16) : (alignDown addr).toNat = addr.toNat - addr.toNat % 8 :=
  (BitVec.toNat_ofNat ..).trans (Nat.mod_eq_of_lt ((Nat.sub_le ..).trans_lt addr.isLt))

/-- Rounding keeps just the multiples of `CG_ALIGN` (R125). -/
theorem alignDown_eq_self_iff (addr : BitVec 16) : alignDown addr = addr ↔ addr.toNat % 8 = 0 := by
  rw [← BitVec.toNat_inj, toNat_alignDown]
  omega

/-- The two bytes of `le16` make up the word, the first of them its low byte (R140). -/
theorem toNat_le16 (w : BitVec 16) :
    (w.extractLsb' 8 8).toNat * 256 + (w.extractLsb' 0 8).toNat = w.toNat := by
  have hw := w.isLt
  simp only [BitVec.extractLsb'_toNat, Nat.shiftRight_eq_div_pow]
  omega

/-! ### Commands issued one after the other (R123, R138) -/

/-- The state that answers `WRC b` on an open controller (R101). -/
def wrcAnswer (r : OpenRegs) (b : Byte) (s : State) : State := succeed [] (runProgram (.wrc b) (wrcProg r b) s)

/-- A command that succeeded adds its data alone to what the rest of the call returns. -/
theorem issue_cons_of_ok {goOn : Bool} {i : Instr} {is : List Instr} {s t : State} {data : List Byte} {e : FacadeEnd}
    (hexec : exec i s = .next t) (hstatus : t.status = statusOk)
    (hresponses : t.responses = s.responses ++ statusOk :: data) (he : issue goOn is t = .next e) :
    issue goOn (i :: is) s = .next { e with data := data ++ e.data } := by
  have hok : errorOf t.status = none := hstatus ▸ errorOf_statusOk
  rw [issue_cons hexec (.inl hok) he, hok, responseData_eq hresponses]
  rfl

section Opened

variable {r : OpenRegs} {s : State} (hlife : s.life = .opened r)

include hlife

theorem wrcAnswer_life (b : Byte) : (wrcAnswer r b s).life = .opened r :=
  (runProgram_untouched _ _ s).life.trans hlife

theorem isWriteOnly_of_opened : isWriteOnly s = !r.canRead := by simp [isWriteOnly, hlife]

/-- An opcode sent adds nothing to what the rest of the call returns. -/
theorem issue_wrc_cons (b : Byte) {goOn : Bool} {is : List Instr} {e : FacadeEnd}
    (he : issue goOn is (wrcAnswer r b s) = .next e) : issue goOn (.wrc b :: is) s = .next e :=
  issue_cons_of_ok (exec_wrc_of_opened hlife b) rfl (bytesWritten_wrc s r b).responses_succeed he

/-- An opcode that may be sent or not leaves the controller open and adds nothing to what the rest of the
call returns. -/
theorem issue_opcode_append (sent : Bool) (b : Byte) :
    ∃ t, t.life = .opened r ∧ ∀ (goOn : Bool) (is : List Instr) (e : FacadeEnd), issue goOn is t = .next e →
      issue goOn ((if sent then [.wrc b] else []) ++ is) s = .next e := by
  cases sent with
  | false => exact ⟨s, hlife, fun _ _ _ he => he⟩
  | true => exact ⟨_, wrcAnswer_life hlife b, fun _ _ _ he => issue_wrc_cons hlife b he⟩

/-- On a readable bus the call returns the bytes of the RDB before those of the rest (R112). -/
theorem issue_rdb_cons_of_readable (hread : r.canRead = true) (count : Word32) {goOn : Bool} {is : List Instr}
    {e : FacadeEnd} (he : issue goOn is (readAnswer (.rdb count) r Config.rsDataLevel count s) = .next e) :
    issue goOn (.rdb count :: is) s =
      .next { e with data := (readAnswer (.rdb count) r Config.rsDataLevel count s).rdata ++ e.data } :=
  issue_cons_of_ok (exec_rdb_of_readable hlife hread count) rfl (readAnswer_responses ..) he

/-- On a write-only bus the error of the RDB is the call's, whatever comes after it (R115, R138). -/
theorem issue_rdb_cons_of_writeOnly (hread : r.canRead = false) (count : Word32) {is : List Instr} {e : FacadeEnd}
    (he : issue true is (fail .unsupportedOperation s) = .next e) :
    issue true (.rdb count :: is) s = .next { e with error := some .unsupportedOperation } := by
  have hresponses : (fail .unsupportedOperation s).responses = s.responses ++ [0x02#8] := rfl
  rw [issue_cons (exec_rdb_of_writeOnly hlife hread count) (.inr rfl) he, responseData_eq hresponses]
  rfl

end Opened

/-! ### `bulk_read` (R132) -/

/-- `bulk_read` on a readable bus: its three commands in order, and the bytes of the RDB (R132). -/
theorem bulkRead_of_readable {s : State} {r : OpenRegs} (hlife : s.life = .opened r) (hread : r.canRead = true)
    (len : Word32) :
    ∃ t u v data, exec (.wrc Config.opcAutoRead) s = .next t ∧ exec (.rdb len) t = .next u ∧
      exec (.wrc Config.opcAutoReset) u = .next v ∧ u.responses = t.responses ++ 0x00#8 :: data ∧
      data.length = len.toNat ∧ bulkRead len s = .next { state := v, error := none, data := data } := by
  have ht := wrcAnswer_life hlife Config.opcAutoRead
  have hu := (readFrame_readAnswer (.rdb len) r Config.rsDataLevel len _).life.trans ht
  have hcmds : bulkReadCmds len false = [.wrc Config.opcAutoRead, .rdb len, .wrc Config.opcAutoReset] := rfl
  refine ⟨_, _, _, _, exec_wrc_of_opened hlife _, exec_rdb_of_readable ht hread len, exec_wrc_of_opened hu _,
    readAnswer_responses .., length_rdata_readFrame .., ?_⟩
  have hreset := issue_wrc_cons hu Config.opcAutoReset (issue_nil false _)
  have hrdb := issue_rdb_cons_of_readable ht hread len hreset
  rw [List.append_nil] at hrdb
  rw [bulkRead, isWriteOnly_of_opened hlife, hread, Bool.not_true, hcmds]
  exact issue_wrc_cons hlife Config.opcAutoRead hrdb

/-- `bulk_read` on a write-only bus: the error of its RDB and no data, whichever opcodes are sent around it (R132). -/
theorem bulkRead_of_writeOnly {s : State} {r : OpenRegs} (hlife : s.life = .opened r) (hread : r.canRead = false)
    (len : Word32) :
    ∃ u, bulkRead len s = .next { state := u, error := some .unsupportedOperation, data := [] } := by
  obtain ⟨t, ht, hautoRead⟩ := issue_opcode_append hlife Config.sendsReadOpcode Config.opcAutoRead
  obtain ⟨u, -, hautoReset⟩ := issue_opcode_append (s := fail .unsupportedOperation t) ht
    Config.sendsAutoReset Config.opcAutoReset
  have hcmds : bulkReadCmds len true = (if Config.sendsReadOpcode then [.wrc Config.opcAutoRead] else []) ++
      .rdb len :: (if Config.sendsAutoReset then [.wrc Config.opcAutoReset] else []) := by
    simp [bulkReadCmds, readCmds]
  have hreset := hautoReset true [] _ (issue_nil true u)
  rw [List.append_nil] at hreset
  have hrdb := issue_rdb_cons_of_writeOnly ht hread len hreset
  rw [bulkRead, isWriteOnly_of_opened hlife, hread, Bool.not_false, hcmds]
  exact ⟨u, hautoRead true _ _ hrdb⟩

/-! ### The obligations -/

/-- Settles O50: the rounded address is the number of `toNat_alignDown`, and `le16` its two bytes. -/
theorem setCgOffsetRoundsDown : Obligations.SetCgOffsetRoundsDown := by
  intro addr cs
  have hround : (setCgOffset addr cs).chip.cgBase.toNat = addr.toNat - addr.toNat % 8 := toNat_alignDown addr
  refine ⟨by omega, by omega, by omega, ?_, rfl, _, _, toNat_le16 _, rfl⟩
  exact decide_eq_true_iff.trans (alignDown_eq_self_iff addr).not

/-- Settles O52, by whether the bus is readable. -/
theorem facadeBulkReadReturnsItsBytes : Obligations.FacadeBulkReadReturnsItsBytes :=
  ⟨fun _ _ len hlife hread => bulkRead_of_readable hlife hread len,
    fun _ _ len hlife hread => bulkRead_of_writeOnly hlife hread len⟩

end Sys2Proof.Proofs.Facade
end

section
/-! PROOFS. The statements of 60_exceptions.md: a failing command touches no line, and the order of the tests. -/

namespace Sys2Proof.Proofs.Exceptions

open Sys2Proof.Machine Sys2Proof.Claims Sys2Proof.Laws
open Sys2Proof.Proofs.Encoding Sys2Proof.Proofs.Lifecycle Sys2Proof.Proofs.Write Sys2Proof.Proofs.Read

/-! ### OPEN with some pin held -/

/-- From `s` to `t` pins were claimed and released again: no line was driven or sampled, and every pad is as it was. -/
structure ClaimsUndone (s t : State) : Prop where
  responses : t.responses = s.responses
  pad : ∀ p, t.pad p = s.pad p
  trace : ∃ es, t.trace = s.trace ++ es ∧ ∀ e ∈ es, (∃ p g, e = .claim p g) ∨ ∃ p, e = .release p

section Held

variable {c : BusConfig} {s : State} (hvalid : valid c = true) (hheld : ∃ p ∈ configPins c, (s.pad p).claimed = true)

include hvalid hheld

/-- The program of OPEN stops at the first held pin, wherever it stands among the lines (R86, R89). -/
theorem claimsUndone_open_of_held :
    (runProgram (.openBus c) (openProg c) s).res = false ∧ ClaimsUndone s (runProgram (.openBus c) (openProg c) s) := by
  rcases first_held (configPins c) s with hfree | ⟨granted, q, later, hpins, hbefore, hq⟩
  · obtain ⟨p, hp, hclaimed⟩ := hheld
    rw [hfree p hp] at hclaimed; cases hclaimed
  · refine ⟨res_open_refused hvalid hpins hbefore hq, (claimsOnly_open_refused hvalid hpins hbefore hq).responses,
      pad_open_refused hvalid hpins hbefore hq, _,
      (trace_open_refused hvalid hpins hbefore hq).trans (List.append_assoc ..), fun e he => ?_⟩
    rcases List.mem_append.mp he with hclaim | hrest
    · obtain ⟨p, -, rfl⟩ := List.mem_map.mp hclaim
      exact .inl ⟨p, true, rfl⟩
    rcases List.mem_cons.mp hrest with rfl | hrelease
    · exact .inl ⟨q, false, rfl⟩
    · obtain ⟨p, -, rfl⟩ := List.mem_map.mp hrelease
      exact .inr ⟨p, rfl⟩

theorem exec_open_of_held (hlife : s.life = .closed) :
    ∃ u, ClaimsUndone s u ∧ exec (.openBus c) s = .next (fail .configurationError u) := by
  obtain ⟨hres, hundone⟩ := claimsUndone_open_of_held hvalid hheld
  exact ⟨_, hundone, by rw [exec_open_of_valid hlife hvalid, openDone_of_refused hres]⟩

end Held

/-! ### Which commands fail -/

/-- A command whose program ran fails only as an OPEN that found a pin held (R86, R153). -/
theorem held_of_accepted_fails {i : Instr} {prog : List Stmt} {s : State} (h : Accepts s i prog)
    (hstatus : (commandDone i (runProgram i prog s)).status ≠ 0x00#8) :
    ∃ c, i = .openBus c ∧ s.life = .closed ∧ valid c = true ∧ ∃ p ∈ configPins c, (s.pad p).claimed = true := by
  cases h with
  | @openBus c hlife hvalid =>
    refine ⟨c, rfl, hlife, hvalid, ?_⟩
    by_contra hnone
    have hfree : ∀ p ∈ configPins c, (s.pad p).claimed = false := by simpa using hnone
    rw [commandDone, openDone_of_granted (res_open_granted hvalid hfree)] at hstatus
    exact hstatus rfl
  | _ => exact absurd rfl hstatus

/-- A command that fails is turned away before its program, or is an OPEN that undid its claims (R151, R153). -/
theorem failing_exec_cases {i : Instr} {s t : State} (hexec : exec i s = .next t) (hfault : t.fault = false)
    (hstatus : t.status ≠ 0x00#8) :
    (∃ k, t = fail k s) ∨
      ∃ c u, i = .openBus c ∧ valid c = true ∧ ClaimsUndone s u ∧ t = fail .configurationError u := by
  obtain hfail | ⟨prog, haccepts, ht⟩ | ⟨-, -, htrue⟩ := exec_next_cases hexec
  · exact .inl hfail
  · rw [ht] at hstatus
    obtain ⟨c, rfl, hlife, hvalid, hheld⟩ := held_of_accepted_fails haccepts hstatus
    obtain ⟨u, hundone, hu⟩ := exec_open_of_held hvalid hheld hlife
    rw [hu] at hexec
    cases hexec
    exact .inr ⟨c, u, rfl, hvalid, hundone, rfl⟩
  · rw [hfault] at htrue; cases htrue

/-! ### The error that is reported -/

/-- R101, R107, R151: the lifecycle test turns every transfer command away while CLOSED. -/
theorem exec_transfer_of_closed {i : Instr} {s : State} (hlife : s.life = .closed) (hopen : ∀ c, i ≠ .openBus c)
    (hclose : i ≠ .closeBus) : exec i s = .next (fail .handleInvalid s) := by
  cases i with
  | openBus c => exact absurd rfl (hopen c)
  | wrc b => exact exec_wrc_of_closed hlife b
  | wrb bytes => exact exec_wrb_of_closed hlife bytes
  | rdb count => exact exec_rdb_of_closed hlife count
  | rdr => exact exec_rdr_of_closed hlife
  | closeBus => exact absurd rfl hclose

/-- R107, R151: the capability test turns both reads away on a write-only bus. -/
theorem exec_read_of_writeOnly {i : Instr} {s : State} {r : OpenRegs} (hlife : s.life = .opened r)
    (hread : r.canRead = false) (hi : i = .rdr ∨ ∃ count, i = .rdb count) :
    exec i s = .next (fail .unsupportedOperation s) := by
  rcases hi with rfl | ⟨count, rfl⟩
  · exact exec_rdr_of_writeOnly hlife hread
  · exact exec_rdb_of_writeOnly hlife hread count

/-- An error of the command at the head of the stream is the status of the step and its one response byte (R152). -/
theorem step_of_exec_fails {i : Instr} {s u : State} {rest : List Byte} {k : ErrorKind} (hs : Idle s)
    (hdecode : decode s.commands = .command i rest) (hexec : exec i (s.consume rest) = .next (fail k u))
    (hresponses : u.responses = s.responses) :
    ∃ t, step s = .next t ∧ t.status = statusCode k ∧ t.responses = s.responses ++ [statusCode k] :=
  ⟨_, (step_of_command hs hdecode).trans hexec, rfl, by rw [fail_responses, hresponses]⟩

/-! ### The obligations -/

/-- Settles O46, by the two ways in which a command can fail. -/
theorem failingCommandsTouchNoLine : Obligations.FailingCommandsTouchNoLine := by
  refine ⟨fun i s t hexec hfault hstatus => ?_, fun s op rest hs hdecode => ?_⟩
  · rcases failing_exec_cases hexec hfault hstatus with ⟨k, rfl⟩ | ⟨c, u, rfl, hvalid, hundone, rfl⟩
    · exact ⟨fun _ => rfl, [], (List.append_nil _).symm, fun _ => rfl, nofun⟩
    · obtain ⟨es, htrace, hes⟩ := hundone.trace
      refine ⟨hundone.pad, es, htrace, ?_, hes⟩
      rintro (hcode | ⟨c', hc, hinvalid⟩)
      · exact absurd rfl hcode
      · cases hc
        rw [hvalid] at hinvalid; cases hinvalid
  · exact ⟨_, step_of_badOpcode hs hdecode, rfl, rfl, rfl⟩

/-- Settles O48: each test that turns the command away names the error of the step. -/
theorem errorsAreTestedInOrder : Obligations.ErrorsAreTestedInOrder := by
  intro s hs
  refine ⟨fun op rest hdecode => ?_, fun i rest hdecode hlife hopen hclose => ?_, fun c rest r hdecode hlife => ?_,
    fun i rest r hdecode hlife hread hi => ?_, fun c rest hdecode hlife hreason => ?_⟩
  · exact ⟨_, step_of_badOpcode hs hdecode, rfl, rfl⟩
  · exact step_of_exec_fails hs hdecode (exec_transfer_of_closed hlife hopen hclose) rfl
  · exact step_of_exec_fails hs hdecode (exec_open_of_opened (s := s.consume rest) hlife c) rfl
  · exact step_of_exec_fails hs hdecode (exec_read_of_writeOnly hlife hread hi) rfl
  · cases hvalid : valid c with
    | false => exact step_of_exec_fails hs hdecode (exec_open_of_invalid hlife hvalid) rfl
    | true =>
      have hheld := hreason.resolve_left (by simp [hvalid])
      obtain ⟨u, hundone, hexec⟩ := exec_open_of_held (s := s.consume rest) hvalid hheld hlife
      exact step_of_exec_fails hs hdecode hexec hundone.responses

end Sys2Proof.Proofs.Exceptions
end

section
/-! PROOFS. The statement of 70_reset_and_hazards.md: the state right after reset. -/

namespace Sys2Proof.Proofs.Reset

open Sys2Proof.Machine Sys2Proof.Claims

/-- Settles O8: `State.reset` gives each field of R163's list its launch value, the nine conjuncts in the order of the
list, so each is the field's own equation. -/
theorem resetIsTheLaunchState : Obligations.ResetIsTheLaunchState :=
  ⟨rfl, rfl, rfl, rfl, rfl, rfl, rfl, rfl, rfl⟩

end Sys2Proof.Proofs.Reset
end

section
/-! PROOFS. The statements of 30_encoding.md on whole packets: the decoder and the encoder agree in both directions, and
what a stream that is cut short, a packet and an opcode-table word each do at the head of the command stream. -/

namespace Sys2Proof.Proofs.Decoder

open Sys2Proof.Machine Sys2Proof.Claims Sys2Proof.Laws Sys2Proof.Proofs.Encoding Sys2Proof.Proofs.Lifecycle

/-! ### Every packet decodes to its command -/

/-- The decoder reads back one command from its packet, whatever follows. -/
def ReadsBack (i : Instr) : Prop := ∀ rest : List Byte, decode (encode i ++ rest) = .command i rest

theorem readsBack_rdb (count : Word32) : ReadsBack (.rdb count) := by
  intro rest
  simp [decode, encode, withOperands, List.drop_append]

/-- The rest of a block's packet, from `cnt` on (R59). -/
theorem decode_wrb (bs : List Byte) : decode (0x03#8 :: bs) =
    if bs.length < 4 then .incomplete
    else withOperands bs (4 + (wordAt bs 0).toNat) (.wrb ((bs.drop 4).take (wordAt bs 0).toNat)) := rfl

/-- The `cnt` of a block's packet is its length, so the payload ends where the block does (R54, R63). -/
theorem readsBack_wrb {bytes : List Byte} (hlen : bytes.length < 2 ^ 32) : ReadsBack (.wrb bytes) := by
  intro rest
  have hcnt : (BitVec.ofNat 32 bytes.length).toNat = bytes.length :=
    (BitVec.toNat_ofNat ..).trans (Nat.mod_eq_of_lt hlen)
  have hdrop : (le32Bytes (BitVec.ofNat 32 bytes.length) ++ (bytes ++ rest)).drop 4 = bytes ++ rest := rfl
  rw [encode, List.cons_append, List.append_assoc, decode_wrb, wordAt_le32Bytes, hcnt, withOperands, ← List.drop_drop,
    hdrop, List.take_left, List.drop_left]
  simp [Nat.not_lt.mpr]

theorem readsBack_of_wf {i : Instr} (hwf : i.wf = true) : ReadsBack i := by
  cases i with
  | openBus c => exact decode_encode_openBus c
  | wrc b => exact fun _ => rfl
  | wrb bytes => exact readsBack_wrb (of_decide_eq_true hwf)
  | rdb count => exact readsBack_rdb count
  | rdr => exact fun _ => rfl
  | closeBus => exact fun _ => rfl

/-! ### What the decoder reads is a packet -/

section Fields

variable {bs : List Byte} {k : Nat}

theorem byteAt_cons_drop (h : k < bs.length) (rest : List Byte) (hrest : rest = bs.drop (k + 1)) :
    byteAt bs k :: rest = bs.drop k := by
  rw [hrest, List.drop_eq_getElem_cons h, byteAt, List.getD_eq_getElem _ _ h]

/-- Four bytes put together into a field come apart into the same four (R63). -/
theorem le32Bytes_le32 (b0 b1 b2 b3 : Byte) : le32Bytes (le32 b0 b1 b2 b3) = [b0, b1, b2, b3] := by
  simp only [le32Bytes, le32, List.cons.injEq, and_true]
  refine ⟨?_, ?_, ?_, ?_⟩
  all_goals
    refine BitVec.eq_of_getLsbD_eq fun i hi => ?_
    simp only [BitVec.getLsbD_extractLsb', BitVec.getLsbD_append]
    interval_cases i <;> simp

/-- The bytes of a field that a stream holds are that part of the stream (R63). -/
theorem le32Bytes_wordAt_append (h : k + 4 ≤ bs.length) (rest : List Byte) (hrest : rest = bs.drop (k + 4)) :
    le32Bytes (wordAt bs k) ++ rest = bs.drop k := by
  rw [wordAt, le32Bytes_le32]
  simp only [List.cons_append, List.nil_append]
  refine byteAt_cons_drop (by omega) _ (byteAt_cons_drop (by omega) _ (byteAt_cons_drop (by omega) _ ?_))
  exact byteAt_cons_drop (by omega) _ hrest

/-- The image of the configuration that a stream holds is that part of the stream (R55). -/
theorem configImage_configOfImage (h : 32 ≤ bs.length) : configImage (configOfImage bs) ++ bs.drop 32 = bs := by
  simp only [configImage, configOfImage, List.append_assoc, List.cons_append, List.nil_append]
  have hdelays := le32Bytes_wordAt_append (bs := bs) (k := 12) (by omega) _ <|
    le32Bytes_wordAt_append (k := 16) (by omega) _ <| le32Bytes_wordAt_append (k := 20) (by omega) _ <|
    le32Bytes_wordAt_append (k := 24) (by omega) _ <| le32Bytes_wordAt_append (k := 28) (by omega) _ rfl
  rw [hdelays]
  iterate 12 rw [byteAt_cons_drop (by omega) _ rfl]
  rfl

end Fields

theorem withOperands_eq_command {bs : List Byte} {n : Nat} {i j : Instr} {rest : List Byte}
    (h : withOperands bs n i = .command j rest) : n ≤ bs.length ∧ j = i ∧ rest = bs.drop n := by
  unfold withOperands at h
  split at h
  · cases h
  · next hlen => cases h; exact ⟨Nat.le_of_not_lt hlen, rfl, rfl⟩

/-- The payload of a block is well formed, and `cnt` is its length (R59). -/
theorem wrb_packet {bs : List Byte} (hlen : 4 + (wordAt bs 0).toNat ≤ bs.length) :
    (Instr.wrb ((bs.drop 4).take (wordAt bs 0).toNat)).wf = true ∧
      0x03#8 :: bs = encode (.wrb ((bs.drop 4).take (wordAt bs 0).toNat)) ++ bs.drop (4 + (wordAt bs 0).toNat) := by
  have hpayload : ((bs.drop 4).take (wordAt bs 0).toNat).length = (wordAt bs 0).toNat := by
    rw [List.length_take, List.length_drop]; omega
  refine ⟨decide_eq_true (by rw [hpayload]; exact (wordAt bs 0).isLt), ?_⟩
  have hrest : (bs.drop 4).take (wordAt bs 0).toNat ++ bs.drop (4 + (wordAt bs 0).toNat) = bs.drop 4 := by
    rw [← List.drop_drop, List.take_append_drop]
  rw [encode, hpayload, BitVec.ofNat_toNat, BitVec.setWidth_eq, List.cons_append, List.append_assoc, hrest,
    le32Bytes_wordAt_append (by omega) _ rfl]
  rfl

/-- The six rows of the opcode table, each with its operand length (R56 to R62). -/
theorem decode_eq_command {bs : List Byte} {i : Instr} {rest : List Byte} (h : decode bs = .command i rest) :
    i.wf = true ∧ bs = encode i ++ rest := by
  cases bs with
  | nil => cases h
  | cons op bs =>
    simp only [decode] at h
    split_ifs at h with hop hop hop hshort hop hop hop
    · obtain ⟨hlen, rfl, rfl⟩ := withOperands_eq_command h
      exact ⟨rfl, by rw [hop, encode, List.cons_append, configImage_configOfImage hlen]⟩
    · obtain ⟨hlen, rfl, rfl⟩ := withOperands_eq_command h
      refine ⟨rfl, ?_⟩
      rw [hop, encode, List.cons_append, List.cons_append, List.nil_append, byteAt_cons_drop hlen _ rfl]
      rfl
    · obtain ⟨hlen, rfl, rfl⟩ := withOperands_eq_command h
      rw [hop]
      exact wrb_packet hlen
    · obtain ⟨hlen, rfl, rfl⟩ := withOperands_eq_command h
      refine ⟨rfl, ?_⟩
      rw [hop, encode, List.cons_append, le32Bytes_wordAt_append hlen _ rfl]
      rfl
    · cases h; exact ⟨rfl, by rw [hop]; rfl⟩
    · cases h; exact ⟨rfl, by rw [hop]; rfl⟩

/-! ### Streams that end inside a packet -/

theorem withOperands_not_badOpcode {bs : List Byte} {n : Nat} {i : Instr} {op : Byte} {rest : List Byte}
    (h : withOperands bs n i = .badOpcode op rest) : False := by
  unfold withOperands at h
  split at h <;> cases h

/-- A reserved opcode byte is a packet of its own, so bytes after it do not change what it is (R64). -/
theorem decode_append_of_badOpcode {bs : List Byte} {op : Byte} {rest : List Byte} (h : decode bs = .badOpcode op rest)
    (more : List Byte) : decode (bs ++ more) = .badOpcode op (rest ++ more) := by
  cases bs with
  | nil => cases h
  | cons first bs =>
    simp only [decode] at h
    split_ifs at h with h1 h2 h3 hshort h4 h5 h6
    · exact (withOperands_not_badOpcode h).elim
    · exact (withOperands_not_badOpcode h).elim
    · exact (withOperands_not_badOpcode h).elim
    · exact (withOperands_not_badOpcode h).elim
    · cases h
      simp [decode, h1, h2, h3, h4, h5, h6]

/-- A proper part of a packet, from its start, is no command: the decoder would read that command, and not the packet's
own, from the whole packet (R66). -/
theorem decode_cut_short {i : Instr} (hwf : i.wf = true) {bs lacking : List Byte} (hi : encode i = bs ++ lacking)
    (hlacking : lacking ≠ []) : decode bs = .incomplete := by
  have hwhole : decode (bs ++ lacking) = .command i [] := by
    rw [← hi, ← List.append_nil (encode i)]
    exact readsBack_of_wf hwf []
  cases h : decode bs with
  | command j rest =>
    obtain ⟨hjwf, hbs⟩ := decode_eq_command h
    have hj := readsBack_of_wf hjwf (rest ++ lacking)
    rw [← List.append_assoc, ← hbs, hwhole] at hj
    obtain ⟨-, hnil⟩ := Decoded.command.inj hj
    exact absurd (List.append_eq_nil_iff.mp hnil.symm).2 hlacking
  | badOpcode op rest =>
    rw [decode_append_of_badOpcode h] at hwhole
    cases hwhole
  | incomplete => rfl

/-! ### Opcode-table words -/

theorem packetLength_of_decode {bs : List Byte} {i : Instr} {rest : List Byte} (h : decode bs = .command i rest) :
    packetLength bs = (encode i).length := by
  obtain ⟨hwf, rfl⟩ := decode_eq_command h
  cases i with
  | openBus c => exact PacketLength.openBus c hwf
  | wrc b => exact PacketLength.wrc b hwf
  | wrb bytes => exact PacketLength.wrb bytes hwf
  | rdb count => exact PacketLength.rdb count hwf
  | rdr => exact PacketLength.rdr hwf
  | closeBus => exact PacketLength.closeBus hwf

theorem byteAt_append_zeros (bs : List Byte) (n k : Nat) : byteAt (bs ++ List.replicate n 0#8) k = byteAt bs k := by
  simp only [byteAt, List.getD_eq_getElem?_getD]
  by_cases hk : k < bs.length
  · rw [List.getElem?_append_left hk]
  · have hge := Nat.le_of_not_lt hk
    rw [List.getElem?_append_right hge, List.getElem?_getD_replicate_default_eq, List.getElem?_eq_none hge]
    rfl

theorem byteAt_take {bs : List Byte} {n k : Nat} (hk : k < n) : byteAt (bs.take n) k = byteAt bs k := by
  unfold byteAt
  rw [List.getD_eq_getElem?_getD, List.getD_eq_getElem?_getD, List.getElem?_take_of_lt hk]

/-- The length of a packet is told by its first byte and, in a block's packet, by the next four (R66). -/
theorem packetLength_congr {as bs : List Byte} (h : ∀ k < packetLength bs, byteAt as k = byteAt bs k) :
    packetLength as = packetLength bs := by
  have hpos : 0 < packetLength bs := by unfold packetLength; split_ifs <;> omega
  have hcnt (hop : byteAt bs 0 = 0x03#8) : wordAt as 1 = wordAt bs 1 := by
    have hlen : 5 ≤ packetLength bs := by simp [packetLength, hop]
    simp only [wordAt, h 1 (by omega), h 2 (by omega), h 3 (by omega), h 4 (by omega)]
  unfold packetLength
  rw [h 0 hpos]
  split_ifs with hop1 hop2 hop3
  · rfl
  · rfl
  · rw [hcnt hop3]
  · rfl
  · rfl

/-- A table word's packet is as long as a packet that starts with its bytes. -/
theorem length_tablePacket (nbits w : Nat) : (tablePacket nbits w).length = packetLength (tablePacket nbits w) := by
  unfold tablePacket
  generalize wordBytes ((nbits + 7) / 8) (w % 2 ^ nbits) = bs
  simp only
  rw [packetLength_congr (bs := bs) fun k hk => (byteAt_take hk).trans (byteAt_append_zeros ..)]
  rw [List.length_take, List.length_append, List.length_replicate]
  omega

/-- A command that a table word decodes to is its whole packet (R66). -/
theorem tablePacket_of_decode {nbits w : Nat} {i : Instr} (h : decodeTableWord nbits w = some i) :
    i.wf = true ∧ tablePacket nbits w = encode i := by
  unfold decodeTableWord at h
  split at h
  · next j rest hdecode =>
    cases h
    obtain ⟨hwf, hpacket⟩ := decode_eq_command hdecode
    have hlen := (length_tablePacket nbits w).trans (packetLength_of_decode hdecode)
    rw [hpacket, List.length_append, Nat.add_eq_left, List.length_eq_zero_iff] at hlen
    exact ⟨hwf, by rw [hpacket, hlen, List.append_nil]⟩
  · cases h
  · cases h

/-! ### The obligations -/

/-- Settles O1, by the command's constructor. -/
theorem decodeReadsBackEveryCommand : Obligations.DecodeReadsBackEveryCommand :=
  fun _ rest hwf => readsBack_of_wf hwf rest

/-- Settles O2, by the opcode byte. -/
theorem decodedPacketIsItsEncoding : Obligations.DecodedPacketIsItsEncoding := fun _ _ _ h => decode_eq_command h

/-- Settles O4: the decoder evaluated on the five packets. -/
theorem packetsDecodeAsWrittenOut : Obligations.PacketsDecodeAsWrittenOut := ⟨rfl, rfl, rfl, rfl, rfl⟩

/-- Settles O5: the stream and the bytes it lacks are the packet. -/
theorem packetCutShortWaits : Obligations.PacketCutShortWaits := by
  intro s i n hs hwf hn hcommands
  have hlacking : (encode i).drop n ≠ [] := by rw [Ne, List.drop_eq_nil_iff]; omega
  have hdecode : decode s.commands = .incomplete := by
    rw [hcommands]
    exact decode_cut_short hwf (List.take_append_drop n _).symm hlacking
  obtain ⟨hfault, hseq⟩ := hs
  simp [step, hfault, hseq, hdecode]

/-- Settles O6: idle without fault, the step is the decoded command. -/
theorem stepExecutesTheDecodedCommand : Obligations.StepExecutesTheDecodedCommand :=
  fun _ _ _ hs hdecode => step_of_command hs hdecode

/-- Settles O7: the word's packet is the command's, and the stream behind it is what is left over. -/
theorem fetchWordRunsItsCommand : Obligations.FetchWordRunsItsCommand := by
  intro s nbits w i h
  obtain ⟨hwf, hpacket⟩ := tablePacket_of_decode h
  have hdecode : decode (s.withFetchWord nbits w).commands = .command i s.commands := by
    show decode (tablePacket nbits w ++ s.commands) = _
    rw [hpacket]
    exact readsBack_of_wf hwf s.commands
  exact step_of_command ⟨rfl, rfl⟩ hdecode

end Sys2Proof.Proofs.Decoder
end

section
/-! PROOFS. What an accepted command runs (10_state.md R22, 70_reset_and_hazards.md R180): its micro-operations, their
number, the delays among them, the pins they use, and the nibble phase that they leave. -/

namespace Sys2Proof.Proofs.Programs

open Sys2Proof.Machine Sys2Proof.Claims Sys2Proof.Laws
open Sys2Proof.Proofs.Encoding Sys2Proof.Proofs.Lifecycle Sys2Proof.Proofs.Write Sys2Proof.Proofs.Read

/-! ### A command that is accepted -/

/-- An accepted command runs its program and ends as commands of its kind do (R22, R46). -/
theorem exec_of_accepts {s : State} {i : Instr} {prog : List Stmt} (h : Accepts s i prog) :
    exec i s = .next (commandDone i (runProgram i prog s)) := by
  cases h with
  | openBus hlife hvalid => exact exec_open_of_valid hlife hvalid
  | wrc b hlife => exact exec_wrc_of_opened hlife b
  | wrb bytes hlife => exact exec_wrb_of_opened hlife bytes
  | rdb count hlife hread => exact exec_rdb_of_readable hlife hread count
  | rdr hlife hread => exact exec_rdr_of_readable hlife hread
  | closeBus hlife => exact exec_close_of_opened hlife

/-- How a command ends is no part of its bus activity or of the data path. -/
theorem commandDone_same {α : Type} (f : State → α)
    (hrespond : ∀ code data s, f (respond code data s) = f s)
    (hlife : ∀ life owned dir s, f { s with life := life, owned := owned, dir := dir } = f s) (i : Instr) (s : State) :
    f (commandDone i s) = f s := by
  cases i with
  | openBus c =>
    simp only [commandDone, openDone]
    split
    · exact (hrespond _ _ _).trans (hlife _ _ _ _)
    · exact hrespond _ _ _
  | closeBus => exact (hrespond _ _ _).trans (hlife _ _ _ _)
  | _ => exact hrespond _ _ _

theorem noCheck_writeBytes (r : OpenRegs) (bytes : List Byte) : NoCheck (writeBytes r bytes) := by
  induction bytes with
  | nil => intro undo; simp [writeBytes]
  | cons b bytes ih => exact ((noCheck_busWrite r _ b).append (by intro undo; simp)).append ih

theorem noCheck_wrbProg (r : OpenRegs) (bytes : List Byte) : NoCheck (wrbProg r bytes) := by
  intro undo h
  rcases List.mem_cons.mp h with h | h
  · cases h
  · exact noCheck_writeBytes r bytes undo h

/-- No result ends the program of an accepted command early, OPEN aside (R186). -/
theorem noCheck_of_accepts {s : State} {r : OpenRegs} {i : Instr} {prog : List Stmt} (hlife : s.life = .opened r)
    (h : Accepts s i prog) : NoCheck prog := by
  cases h with
  | openBus hclosed => rw [hlife] at hclosed; cases hclosed
  | wrc b => exact noCheck_busWrite _ _ b
  | wrb bytes => exact noCheck_wrbProg _ bytes
  | rdb count => exact noCheck_readFrame _ _ count
  | rdr => exact noCheck_readFrame _ _ _
  | closeBus => exact noCheck_closeProg _

section Accepted

variable {s : State} {r : OpenRegs} {i : Instr} {prog : List Stmt} (hlife : s.life = .opened r) (h : Accepts s i prog)

include hlife h

/-- The events of an accepted command record its program's micro-operations (R22, R73). -/
theorem trace_of_accepts :
    ∃ t es, exec i s = .next t ∧ t.trace = s.trace ++ es ∧ es.map Event.microOp = microOps prog := by
  obtain ⟨es, htrace, hops⟩ := trace_runStmts (noCheck_of_accepts hlife h) (accept i prog s)
  exact ⟨_, es, exec_of_accepts h,
    (commandDone_same State.trace (fun _ _ _ => rfl) (fun _ _ _ _ => rfl) i _).trans htrace, hops⟩

/-- An accepted command spends the delays of its program (R79). -/
theorem tmin_of_accepts : ∃ t, exec i s = .next t ∧ t.tmin = s.tmin + delaySum (microOps prog) :=
  ⟨_, exec_of_accepts h, (commandDone_same State.tmin (fun _ _ _ => rfl) (fun _ _ _ _ => rfl) i _).trans
    (tmin_runStmts (noCheck_of_accepts hlife h) (accept i prog s))⟩

end Accepted

/-! ### The micro-operations of the programs -/

theorem microOps_append (a b : List Stmt) : microOps (a ++ b) = microOps a ++ microOps b := List.filterMap_append

theorem mem_microOps {prog : List Stmt} {o : MicroOp} : o ∈ microOps prog ↔ Stmt.op o ∈ prog := by
  unfold microOps
  rw [List.mem_filterMap]
  constructor
  · rintro ⟨m, hm, ho⟩
    cases m with
    | op o' => cases ho; exact hm
    | _ => cases ho
  · exact fun h => ⟨_, h, rfl⟩

theorem microOps_map_op {α : Type} (f : α → MicroOp) (as : List α) :
    microOps (as.map fun a => .op (f a)) = as.map f := by
  induction as with
  | nil => rfl
  | cons a as ih => exact congrArg (f a :: ·) ih

theorem microOps_wrbProg (r : OpenRegs) (bytes : List Byte) :
    microOps (wrbProg r bytes) = bytes.flatMap fun b => microOps (busWrite r Config.rsDataLevel b) := by
  change microOps (writeBytes r bytes) = _
  induction bytes with
  | nil => rfl
  | cons b bytes ih =>
    change microOps (busWrite r Config.rsDataLevel b ++ [.countDown] ++ writeBytes r bytes) = _
    rw [microOps_append, microOps_append, ih, List.flatMap_cons]
    exact congrArg (· ++ _) (List.append_nil _)

theorem microOps_readBytes (r : OpenRegs) (n : Nat) :
    microOps (readBytes r n) = (List.replicate n (readByteOps r)).flatten := by
  induction n with
  | zero => rfl
  | succ n ih =>
    rw [readBytes, microOps_append, microOps_append, ih, microOps_busRead, List.replicate_succ, List.flatten_cons]
    exact congrArg (· ++ _) (List.append_nil _)

theorem microOps_turnLines (r : OpenRegs) (m : PadMode) :
    microOps (turnLines r m) = (dataPins r).map fun p => .mode p m := by
  rw [← map_gpio_dataLines, List.map_map]
  exact microOps_map_op _ _

/-- A read frame is the statements' own list of it (R111). -/
theorem microOps_readFrame (r : OpenRegs) (rsLevel : Level) (n : Word32) :
    microOps (readFrame r rsLevel n) = readFrameOps r rsLevel n.toNat := by
  have hhead : microOps (.op (.write (gpio r.cfg .rs) rsLevel) :: turnLines r .inp) =
      .write r.cfg.rs.toNat rsLevel :: (dataPins r).map fun p => .mode p .inp := by
    rw [← microOps_turnLines]; rfl
  simp only [readFrame, microOps_append, hhead, microOps_readBytes, microOps_turnLines]
  simp [microOps, List.filterMap_cons, Stmt.microOp, readFrameOps]

theorem microOps_closeProg (r : OpenRegs) :
    microOps (closeProg r) = (pins r.cfg r.w4 r.canRead).reverse.map .release :=
  microOps_map_op _ _

theorem microOps_claimPhase (granted ps : List Nat) : microOps (claimPhase granted ps) = ps.map .claim := by
  induction ps generalizing granted with
  | nil => rfl
  | cons p ps ih => exact congrArg (MicroOp.claim p :: ·) (ih _)

theorem microOps_initPhase (c : BusConfig) (ls : List Line) : microOps (initPhase c ls) =
    ls.flatMap fun l => [.write (gpio c l) (initLevel l), .mode (gpio c l) .out] := by
  induction ls with
  | nil => rfl
  | cons l ls ih => exact congrArg (MicroOp.write _ _ :: MicroOp.mode _ _ :: ·) ih

/-! ### How many they are (R180) -/

theorem length_lines (w4 canRead : Bool) :
    (lines w4 canRead).length = if w4 then (if canRead then 7 else 6) else (if canRead then 11 else 10) := by
  cases w4 <;> cases canRead <;> rfl

/-- Each line is claimed once, written once and set to output once. -/
theorem length_microOps_openProg (c : BusConfig) : (microOps (openProg c)).length = 3 * (configLines c).length := by
  rw [openProg, microOps_append, microOps_claimPhase, microOps_initPhase]
  simp [configPins, pins, configLines, List.length_flatMap]
  omega

theorem length_microOps_busWrite (r : OpenRegs) (rsLevel : Level) (b : Byte) :
    (microOps (busWrite r rsLevel b)).length = if r.w4 then 19 else 14 := by
  have hlength := congrArg List.length (map_plainEvent_busWrite r rsLevel b)
  rw [List.length_map] at hlength
  rw [hlength]
  cases h : r.w4 <;> simp [writeByteEvents, writeCycleEvents, h]

theorem length_dataPins (r : OpenRegs) : (dataPins r).length = if r.w4 then 4 else 8 := by
  cases h : r.w4 <;> simp [dataPins, h]

theorem length_readByteOps (r : OpenRegs) : (readByteOps r).length = if r.w4 then 18 else 13 := by
  cases h : r.w4 <;> simp [readByteOps, readCycleOps, length_dataPins, h]

theorem length_readFrameOps (r : OpenRegs) (rsLevel : Level) (n : Nat) :
    (readFrameOps r rsLevel n).length = if r.w4 then 9 + 18 * n else 17 + 13 * n := by
  cases h : r.w4
  all_goals
    simp [readFrameOps, length_dataPins, length_readByteOps, h]
    omega

/-! ### The delays among them (R180) -/

theorem delaySum_append (a b : List MicroOp) : delaySum (a ++ b) = delaySum a + delaySum b := by
  induction a with
  | nil => exact (Nat.zero_add _).symm
  | cons o os ih => cases o <;> simp [delaySum, ih, Nat.add_assoc]

theorem delaySum_map_mode (ps : List Nat) (m : PadMode) : delaySum (ps.map fun p => .mode p m) = 0 := by
  induction ps with
  | nil => rfl
  | cons p ps ih => exact ih

/-- Blocks of one delay each (R106, R118). -/
theorem delaySum_flatMap {α : Type} (f : α → List MicroOp) (d : Nat) (h : ∀ a, delaySum (f a) = d) (as : List α) :
    delaySum (as.flatMap f) = as.length * d := by
  induction as with
  | nil => simp [delaySum]
  | cons a as ih => rw [List.flatMap_cons, delaySum_append, h, ih, List.length_cons, Nat.succ_mul, Nat.add_comm]

/-- The nanoseconds of a read frame are those of its bytes (R111, R118). -/
theorem delaySum_readFrameOps (r : OpenRegs) (rsLevel : Level) (n : Nat) :
    delaySum (readFrameOps r rsLevel n) =
      n * (cyclesPerByte r * (r.cfg.tSu.toNat + r.cfg.tRd.toNat + r.cfg.tProc.toNat)) := by
  have hbytes := delaySum_flatMap (fun _ : Unit => readByteOps r) _
    (fun _ => microOps_busRead r ▸ delaySum_busRead r) (List.replicate n ())
  rw [List.flatMap_replicate, List.length_replicate] at hbytes
  rw [readFrameOps, delaySum_append, delaySum_append, hbytes, delaySum_map_mode, delaySum, delaySum_map_mode,
    Nat.zero_add, Nat.add_zero]
  exact nofun

/-! ### The pins they use (R81) -/

/-- A micro-operation drives, samples or turns pin `p`. -/
def UsesPin (o : MicroOp) (p : Nat) : Prop := (∃ m, o = .mode p m) ∨ (∃ v, o = .write p v) ∨ o = .sample p

section UsesPin

variable {p q : Nat}

@[simp] theorem usesPin_mode {m : PadMode} : UsesPin (.mode q m) p ↔ q = p := by simp [UsesPin]

@[simp] theorem usesPin_write {v : Level} : UsesPin (.write q v) p ↔ q = p := by simp [UsesPin]

@[simp] theorem usesPin_sample : UsesPin (.sample q) p ↔ q = p := by simp [UsesPin]

theorem not_usesPin_delay {d : Nat} : ¬ UsesPin (.delay d) p := by simp [UsesPin]

end UsesPin

/-- The mode, write and sample statements of a program name pins of the configuration's lines alone. -/
def OnPins (r : OpenRegs) (prog : List Stmt) : Prop :=
  ∀ o p, Stmt.op o ∈ prog → UsesPin o p → p ∈ pins r.cfg r.w4 r.canRead

theorem gpio_mem_pins {r : OpenRegs} {l : Line} (hl : l ∈ lines r.w4 r.canRead) :
    gpio r.cfg l ∈ pins r.cfg r.w4 r.canRead :=
  List.mem_map_of_mem hl

theorem dataPin_mem_pins {r : OpenRegs} {p : Nat} (hp : p ∈ dataPins r) : p ∈ pins r.cfg r.w4 r.canRead := by
  rw [← map_gpio_dataLines] at hp
  obtain ⟨l, hl, rfl⟩ := List.mem_map.mp hp
  exact gpio_mem_pins (mem_lines_of_data hl _)

theorem onPins_busWrite (r : OpenRegs) (rsLevel : Level) (b : Byte) : OnPins r (busWrite r rsLevel b) := by
  intro o p hmem huses
  have hkinds := kinds_busWrite r rsLevel b p
  obtain ⟨m, rfl⟩ | ⟨v, rfl⟩ | rfl := huses
  · obtain ⟨-, -, -, hmode⟩ := hkinds m
    exact absurd hmem hmode
  · obtain rfl | rfl | hdata := writes_busWrite r rsLevel b hmem
    · exact gpio_mem_pins (rs_mem_lines _ _)
    · exact gpio_mem_pins (ew_mem_lines _ _)
    · exact dataPin_mem_pins (map_gpio_dataLines r ▸ hdata)
  · obtain ⟨-, -, hsample, -⟩ := hkinds .out
    exact absurd hmem hsample

theorem onPins_wrbProg (r : OpenRegs) (bytes : List Byte) : OnPins r (wrbProg r bytes) := by
  intro o p hmem huses
  rw [← mem_microOps, microOps_wrbProg, List.mem_flatMap] at hmem
  obtain ⟨b, -, hmem⟩ := hmem
  exact onPins_busWrite r _ b o p (mem_microOps.mp hmem) huses

/-- Each micro-operation of a read cycle is a delay, a write of RW or a sample of a data line (R108). -/
theorem mem_readCycleOps {r : OpenRegs} {o : MicroOp} (h : o ∈ readCycleOps r) :
    (∃ d, o = .delay d) ∨ (∃ v, o = .write r.cfg.rw.toNat v) ∨ ∃ p ∈ dataPins r, o = .sample p := by
  simp only [readCycleOps, List.mem_append, List.mem_cons, List.mem_map, List.not_mem_nil, or_false] at h
  obtain ((rfl | rfl | rfl) | ⟨p, hp, rfl⟩) | rfl | rfl := h
  · exact .inl ⟨_, rfl⟩
  · exact .inr (.inl ⟨_, rfl⟩)
  · exact .inl ⟨_, rfl⟩
  · exact .inr (.inr ⟨p, hp, rfl⟩)
  · exact .inr (.inl ⟨_, rfl⟩)
  · exact .inl ⟨_, rfl⟩

theorem mem_readByteOps {r : OpenRegs} {o : MicroOp} (h : o ∈ readByteOps r) : o ∈ readCycleOps r := by
  unfold readByteOps at h
  split at h
  · exact (List.mem_append.mp h).elim id id
  · exact h

theorem onPins_readFrame {r : OpenRegs} (hread : r.canRead = true) (rsLevel : Level) (n : Word32) :
    OnPins r (readFrame r rsLevel n) := by
  intro o p hmem huses
  have hrw : r.cfg.rw.toNat ∈ pins r.cfg r.w4 r.canRead := gpio_mem_pins (rw_mem_lines _ hread)
  obtain hrs | ⟨q, hq, d, hmode⟩ | hbyte | hnone := mem_readFrame hmem
  · cases hrs
    exact usesPin_write.mp huses ▸ gpio_mem_pins (rs_mem_lines _ _)
  · cases hmode
    exact usesPin_mode.mp huses ▸ dataPin_mem_pins hq
  · rw [← mem_microOps, microOps_busRead] at hbyte
    obtain ⟨d, rfl⟩ | ⟨v, rfl⟩ | ⟨q, hq, rfl⟩ := mem_readCycleOps (mem_readByteOps hbyte)
    · exact absurd huses not_usesPin_delay
    · exact usesPin_write.mp huses ▸ hrw
    · exact usesPin_sample.mp huses ▸ dataPin_mem_pins hq
  · cases hnone

theorem onPins_of_accepts {s : State} {r : OpenRegs} {i : Instr} {prog : List Stmt} (hlife : s.life = .opened r)
    (hi : i ≠ .closeBus) (h : Accepts s i prog) : OnPins r prog := by
  cases h with
  | openBus hclosed => rw [hlife] at hclosed; cases hclosed
  | wrc b hr => cases hlife.symm.trans hr; exact onPins_busWrite _ _ b
  | wrb bytes hr => cases hlife.symm.trans hr; exact onPins_wrbProg _ bytes
  | rdb count hr hread => cases hlife.symm.trans hr; exact onPins_readFrame hread _ count
  | rdr hr hread => cases hlife.symm.trans hr; exact onPins_readFrame hread _ _
  | closeBus => exact absurd rfl hi

/-- An event of a mode, a write or a sample records a micro-operation that uses its pin. -/
theorem usesPin_microOp {e : Event} {p : Nat}
    (h : (∃ m, e = .mode p m) ∨ (∃ v, e = .write p v) ∨ ∃ v, e = .sample p v) : UsesPin e.microOp p := by
  obtain ⟨m, rfl⟩ | ⟨v, rfl⟩ | ⟨v, rfl⟩ := h
  · exact .inl ⟨m, rfl⟩
  · exact .inr (.inl ⟨v, rfl⟩)
  · exact .inr (.inr rfl)

theorem owned_eq_pins {r : OpenRegs} {s : State} (hinv : OpenInv r s) : s.owned = pins r.cfg r.w4 r.canRead := by
  rw [hinv.owned_eq, hinv.w4_eq, hinv.canRead_eq]
  rfl

/-! ### The nibble phase they leave (R23) -/

theorem phase_writeBytes (r : OpenRegs) (bytes : List Byte) (s : State) :
    (runStmts (writeBytes r bytes) s).h = if r.w4 ∧ bytes ≠ [] then true else s.h := by
  induction bytes generalizing s with
  | nil => simp [writeBytes]
  | cons b bytes ih =>
    obtain ⟨-, hphase, -⟩ := regs_busWrite r Config.rsDataLevel b s
    rw [runStmts_writeBytes_cons, ih]
    simp only [performStmt, hphase]
    cases r.w4 <;> simp

theorem phase_readFrame (r : OpenRegs) (rsLevel : Level) (n : Word32) (s : State) :
    (runStmts (readFrame r rsLevel n) s).h = if r.w4 ∧ n ≠ 0#32 then true else s.h := by
  obtain ⟨data, -, hlength, -, hphase⟩ := readBytes_regs r (frameStart r rsLevel n s) n.toNat
  have hempty : data ≠ [] ↔ n ≠ 0#32 := by
    rw [Ne, ← List.length_eq_zero_iff, hlength, Ne, ← BitVec.toNat_inj]; rfl
  rw [readFrame_eq_readBytes r rsLevel n s State.h (fun _ _ _ => rfl) fun _ _ => rfl, hphase,
    frameStart_same r rsLevel n s State.h (fun _ _ _ => rfl) (fun _ _ _ => rfl) fun _ => rfl]
  simp only [hempty]

/-! ### The obligations -/

/-- Settles O28: the delays of a byte, once or once a byte. -/
theorem writesSpendSetupClockHold : Obligations.WritesSpendSetupClockHold := by
  intro s r hlife
  refine ⟨fun b => ?_, fun bytes => ?_⟩
  · obtain ⟨t, hexec, htmin⟩ := tmin_of_accepts hlife (.wrc b hlife)
    exact ⟨t, hexec, htmin.trans (congrArg _ (delaySum_busWrite ..))⟩
  · obtain ⟨t, hexec, htmin⟩ := tmin_of_accepts hlife (.wrb bytes hlife)
    refine ⟨t, hexec, ?_⟩
    rw [htmin, microOps_wrbProg, delaySum_flatMap _ _ fun b => delaySum_busWrite r _ b]

/-- Settles O37: the delays of the frame's bytes. -/
theorem readsSpendSetupTurnaroundProcessing : Obligations.ReadsSpendSetupTurnaroundProcessing := by
  intro s r hlife hread
  refine ⟨fun count => ?_, ?_⟩
  · obtain ⟨t, hexec, htmin⟩ := tmin_of_accepts hlife (.rdb count hlife hread)
    exact ⟨t, hexec, by rw [htmin, rdbProg, microOps_readFrame, delaySum_readFrameOps]⟩
  · obtain ⟨t, hexec, htmin⟩ := tmin_of_accepts hlife (.rdr hlife hread)
    refine ⟨t, hexec, ?_⟩
    rw [htmin, rdrProg, microOps_readFrame, delaySum_readFrameOps]
    exact congrArg _ (Nat.one_mul _)

/-- Settles O38, by what the bytes of each transfer do to `h`. -/
theorem transfersLeaveTheNibblePhase : Obligations.TransfersLeaveTheNibblePhase := by
  intro s r hlife
  refine ⟨fun b => ⟨_, exec_wrc_of_opened hlife b, ?_⟩, fun bytes => ⟨_, exec_wrb_of_opened hlife bytes, ?_⟩,
    fun hread count => ⟨_, exec_rdb_of_readable hlife hread count, phase_readFrame r _ count _⟩,
    fun hread => ⟨_, exec_rdr_of_readable hlife hread, ?_⟩⟩
  · obtain ⟨-, hphase, -⟩ := regs_busWrite r Config.rsCmdLevel b (accept (.wrc b) (wrcProg r b) s)
    exact hphase
  · rw [runProgram_wrb]
    exact phase_writeBytes r bytes _
  · exact (phase_readFrame r Config.rsCmdLevel 1#32 _).trans (by simp)

/-- Settles O42: none of these programs can be cut short, so each adds the events of all its micro-operations. -/
theorem programIsFixedAtAcceptance : Obligations.ProgramIsFixedAtAcceptance :=
  fun _ _ hlife =>
    ⟨fun b => trace_of_accepts hlife (.wrc b hlife), fun bytes => trace_of_accepts hlife (.wrb bytes hlife),
      fun hread count => trace_of_accepts hlife (.rdb count hlife hread),
      fun hread => trace_of_accepts hlife (.rdr hlife hread), trace_of_accepts hlife (.closeBus hlife)⟩

/-- Settles O43, from the lengths of the parts of each program. -/
theorem microOperationCounts : Obligations.MicroOperationCounts := by
  refine ⟨fun c => ?_, fun r => ?_, fun r b => length_microOps_busWrite r _ b, fun r bytes => ?_, fun r => ?_,
    fun r count => ?_⟩
  · rw [length_microOps_openProg, configLines, length_lines]
    split_ifs <;> rfl
  · rw [microOps_closeProg, List.length_map, List.length_reverse, pins, List.length_map, length_lines]
  · rw [microOps_wrbProg, List.length_flatMap]
    simp only [length_microOps_busWrite, List.map_const', List.sum_replicate, smul_eq_mul]
    split_ifs <;> omega
  · rw [rdrProg, microOps_readFrame, length_readFrameOps]
    rfl
  · rw [rdbProg, microOps_readFrame, length_readFrameOps]

/-- Settles O45: a command that is turned away adds no event, and the program of an accepted one is on the lines of the
configuration. -/
theorem transfersUseOwnedPinsOnly : Obligations.TransfersUseOwnedPinsOnly := by
  intro s t r i hlife hinv hi hexec
  obtain ⟨k, rfl⟩ | ⟨prog, haccepts, -⟩ | ⟨rfl, -, -⟩ := exec_next_cases hexec
  · exact ⟨[], (List.append_nil _).symm, nofun⟩
  · obtain ⟨t', es, hexec', htrace, hops⟩ := trace_of_accepts hlife haccepts
    cases hexec.symm.trans hexec'
    refine ⟨es, htrace, fun e he p huses => ?_⟩
    have hmem : e.microOp ∈ microOps prog := hops ▸ List.mem_map_of_mem he
    rw [owned_eq_pins hinv]
    exact onPins_of_accepts hlife hi haccepts _ p (mem_microOps.mp hmem) (usesPin_microOp huses)
  · exact absurd rfl hi

end Sys2Proof.Proofs.Programs
end

section
/-! PROOFS. Blocks of bytes (42_write.md R102, R103): what the last byte leaves on the lines, and that a block is its
pieces. -/

namespace Sys2Proof.Proofs.Blocks

open Sys2Proof.Machine Sys2Proof.Claims Sys2Proof.Laws
open Sys2Proof.Proofs.Write Sys2Proof.Proofs.Programs

/-! ### Blocks one after the other -/

theorem writeBytes_append (r : OpenRegs) (a b : List Byte) :
    writeBytes r (a ++ b) = writeBytes r a ++ writeBytes r b :=
  List.flatMap_append

/-- A block of two pieces runs as the one and then the other (R103). -/
theorem runStmts_writeBytes_append (r : OpenRegs) (a b : List Byte) (s : State) :
    runStmts (writeBytes r (a ++ b)) s = runStmts (writeBytes r b) (runStmts (writeBytes r a) s) := by
  rw [writeBytes_append, runStmts_append (noCheck_writeBytes r a)]

/-- Each latch after a block is what its last byte left. -/
theorem latch_writeBytes_last (r : OpenRegs) (bytes : List Byte) (b : Byte) (s : State) {p : Nat} (hp : p < 28) :
    ∃ v, ((runStmts (writeBytes r (bytes ++ [b])) s).pad p).latch =
      latchAfter p (busWrite r Config.rsDataLevel b) v := by
  refine ⟨((runStmts (writeBytes r bytes) s).pad p).latch, ?_⟩
  rw [runStmts_writeBytes_append, runStmts_writeBytes_cons]
  exact latch_runStmts (noCheck_busWrite r Config.rsDataLevel b) _ hp

/-! ### What the bus sees -/

/-- Two states that differ in nothing a pin or the device can tell: the pads, the device, the bus's ghosts, and the
index of the next free value. -/
structure SameBus (s t : State) : Prop where
  pads : t.pads = s.pads
  dev : t.dev = s.dev
  draws : t.draws = s.draws
  trace : t.trace = s.trace
  tmin : t.tmin = s.tmin
  nEw : t.nEw = s.nEw

theorem SameBus.symm {s t : State} (h : SameBus s t) : SameBus t s :=
  ⟨h.pads.symm, h.dev.symm, h.draws.symm, h.trace.symm, h.tmin.symm, h.nEw.symm⟩

theorem SameBus.trans {s t u : State} (h : SameBus s t) (k : SameBus t u) : SameBus s u :=
  ⟨k.pads.trans h.pads, k.dev.trans h.dev, k.draws.trans h.draws, k.trace.trans h.trace, k.tmin.trans h.tmin,
    k.nEw.trans h.nEw⟩

section Step

variable {s t : State}

theorem SameBus.pad (h : SameBus s t) (p : Nat) : t.pad p = s.pad p := pad_congr h.pads p

theorem SameBus.level (h : SameBus s t) : t.level = s.level := by
  funext p
  simp only [State.level, State.ext, h.pad, h.dev, h.draws]

theorem SameBus.setPad (h : SameBus s t) (p : Nat) (x : Pad) : SameBus (s.setPad p x) (t.setPad p x) :=
  { h with pads := by rw [setPad_pads, setPad_pads, h.pads] }

theorem SameBus.record (h : SameBus s t) (e : Event) : SameBus (s.record e) (t.record e) :=
  { h with trace := by rw [record_trace, record_trace, h.trace] }

/-- The registers of the controller are no part of what the bus sees. -/
theorem SameBus.perform (h : SameBus s t) (o : MicroOp) : SameBus (perform o s) (perform o t) := by
  cases o with
  | claim p =>
    simp only [Machine.perform, doClaim, h.pad]
    exact { (h.setPad p _).record _ with }
  | release p =>
    simp only [Machine.perform, doRelease, h.pad]
    exact (h.setPad p _).record _
  | mode p m =>
    simp only [Machine.perform, doMode, h.pad]
    exact (h.setPad p _).record _
  | write p v =>
    simp only [Machine.perform, doWrite, h.pad, h.dev, (h.setPad p _).level]
    exact { (h.setPad p _).record _ with dev := rfl }
  | sample p =>
    simp only [Machine.perform, doSample, h.level, h.draws]
    exact { h.record _ with draws := rfl }
  | delay d =>
    simp only [Machine.perform, doDelay, h.tmin]
    exact { h.record _ with tmin := rfl }

theorem SameBus.performStmt (h : SameBus s t) (m : Stmt) : SameBus (performStmt m s) (performStmt m t) := by
  cases m with
  | op o => exact h.perform o
  | countEw => exact { h with nEw := congrArg (· + 1) h.nEw }
  | _ => exact { h with }

theorem SameBus.runStmts {prog : List Stmt} (hn : NoCheck prog) (h : SameBus s t) :
    SameBus (runStmts prog s) (runStmts prog t) := by
  induction prog generalizing s t with
  | nil => exact h
  | cons m ms ih =>
    rw [runStmts_cons hn.head, runStmts_cons hn.head]
    exact ih hn.tail (h.performStmt m)

end Step

/-- The state that answers a WRB on an open controller (R103). -/
def wrbAnswer (r : OpenRegs) (bytes : List Byte) (s : State) : State :=
  succeed [] (runProgram (.wrb bytes) (wrbProg r bytes) s)

/-- The bus sees of a WRB its bytes and nothing else: neither the command nor `CNT` is on the lines. -/
theorem sameBus_wrbAnswer (r : OpenRegs) (bytes : List Byte) (s : State) :
    SameBus (runStmts (writeBytes r bytes) s) (wrbAnswer r bytes s) := by
  have hload : SameBus s (performStmt (.loadCnt (BitVec.ofNat 32 bytes.length))
      (accept (.wrb bytes) (wrbProg r bytes) s)) := ⟨rfl, rfl, rfl, rfl, rfl, rfl⟩
  have hrun := hload.runStmts (noCheck_writeBytes r bytes)
  rw [← runProgram_wrb] at hrun
  exact { hrun with }

/-- One block and its two pieces look the same on the bus (R103). -/
theorem sameBus_wrbAnswer_append (r : OpenRegs) (a b : List Byte) (s : State) :
    SameBus (wrbAnswer r b (wrbAnswer r a s)) (wrbAnswer r (a ++ b) s) := by
  have hpieces := ((sameBus_wrbAnswer r a s).runStmts (noCheck_writeBytes r b)).trans (sameBus_wrbAnswer r b _)
  rw [← runStmts_writeBytes_append] at hpieces
  exact hpieces.symm.trans (sameBus_wrbAnswer r (a ++ b) s)

/-! ### The obligations -/

/-- Settles O24: the latches after the block are those of its last byte. -/
theorem wrbLeavesTheLastByteOnTheLines : Obligations.WrbLeavesTheLastByteOnTheLines := by
  intro s r bytes b hlife hinv
  refine ⟨_, exec_wrb_of_opened hlife (bytes ++ [b]), ?_⟩
  have hwritten := bytesWritten_wrb s r (bytes ++ [b])
  have hlatch {l : Line} (hl : l ∈ lines r.w4 r.canRead) :
      ∃ v, ((succeed [] (runProgram (.wrb (bytes ++ [b])) (wrbProg r (bytes ++ [b])) s)).pad (gpio r.cfg l)).latch =
        latchAfter (gpio r.cfg l) (busWrite r Config.rsDataLevel b) v := by
    rw [runProgram_wrb]
    exact latch_writeBytes_last r bytes b _ (gpio_lt_of_openInv hinv hl)
  have hdata {l : Line} (hl : l ∈ dataLines r.w4) := hlatch (mem_lines_of_data hl _)
  refine ⟨?_, ?_, fun hw i => ?_, fun hw j => ?_, hwritten.dir.trans hinv.dir_out, hwritten.life⟩
  · obtain ⟨v, hv⟩ := hlatch (rs_mem_lines _ _)
    exact hv.trans (rs_busWrite _ _ _ _ (rs_ne_ew hinv) fun l hl => rs_ne_data hinv hl)
  · obtain ⟨v, hv⟩ := hlatch (ew_mem_lines _ _)
    exact hv.trans (ew_busWrite _ _ _ _)
  · obtain ⟨v, hv⟩ := hdata (data_mem_of_width8 hw i)
    exact hv.trans (data8_busWrite hinv _ _ _ hw i)
  · obtain ⟨v, hv⟩ := hdata (data_mem_of_width4 hw (index4_mem j))
    exact hv.trans (data4_busWrite hinv _ _ _ hw j)

/-- Settles O26: what the bus sees of the block is what it sees of its pieces. -/
theorem wrbSplitsWithoutFraming : Obligations.WrbSplitsWithoutFraming := by
  intro s r a b hlife
  have hopened : (wrbAnswer r a s).life = .opened r := (bytesWritten_wrb s r a).life.trans hlife
  have hsame := sameBus_wrbAnswer_append r a b s
  exact ⟨_, _, _, exec_wrb_of_opened hlife (a ++ b), exec_wrb_of_opened hlife a, exec_wrb_of_opened hopened b,
    hsame.trace, hsame.pads, hsame.dev, hsame.tmin, hsame.nEw⟩

end Sys2Proof.Proofs.Blocks
end

section
/-! PROOFS. The invariant of the machine and the sticky fault (10_state.md R21, R24, R25, R32; 60_exceptions.md R155):
the state after reset, what CLOSE keeps, what sets the fault, and the one step that every command is. -/

namespace Sys2Proof.Proofs.Invariant

open Sys2Proof.Machine Sys2Proof.Claims Sys2Proof.Laws
open Sys2Proof.Proofs.Encoding Sys2Proof.Proofs.Lifecycle Sys2Proof.Proofs.Write Sys2Proof.Proofs.Read
open Sys2Proof.Proofs.Programs Sys2Proof.Proofs.Blocks

/-! ### How a step can answer -/

/-- A step that answers finishes the command in progress, executes the command at the head of the stream, or answers a
reserved opcode byte; it starts without fault (R22, R53, R64, R155). -/
theorem step_next_cases {s t : State} (h : step s = .next t) :
    (∃ cmd mpc rest, s.seq = .run cmd mpc rest ∧ t = finishCommand cmd rest s) ∨
      (Idle s ∧ ∃ i rest, decode s.commands = .command i rest ∧ exec i (s.consume rest) = .next t) ∨
      (Idle s ∧ ∃ rest, t = badOpcode (s.consume rest)) := by
  unfold step at h
  split at h
  · cases h
  · next hfault =>
    have hfault' : s.fault = false := Bool.eq_false_iff.mpr hfault
    split at h
    · next cmd mpc rest hseq => cases h; exact .inl ⟨cmd, mpc, rest, hseq, rfl⟩
    · next hseq =>
      split at h
      · next i rest hdecode => exact .inr (.inl ⟨⟨hfault', hseq⟩, i, rest, hdecode, h⟩)
      · next op rest hdecode => cases h; exact .inr (.inr ⟨⟨hfault', hseq⟩, rest, rfl⟩)
      · cases h

/-! ### The sticky fault -/

/-- No command's end touches the fault bit (R24). -/
theorem fault_commandDone (i : Instr) (s : State) : (commandDone i s).fault = s.fault :=
  commandDone_same State.fault (fun _ _ _ => rfl) (fun _ _ _ _ => rfl) i s

/-- Of all commands a CLOSE while CLOSED alone sets the fault bit (R93). -/
theorem closed_close_of_fault {i : Instr} {s t : State} (hs : s.fault = false) (hexec : exec i s = .next t)
    (ht : t.fault = true) : i = .closeBus ∧ s.life = .closed := by
  obtain ⟨k, rfl⟩ | ⟨prog, -, rfl⟩ | ⟨hi, hlife, -⟩ := exec_next_cases hexec
  · have hkept : (fail k s).fault = s.fault := rfl
    rw [hkept, hs] at ht; cases ht
  · rw [fault_commandDone, (runProgram_untouched i prog s).fault, hs] at ht
    cases ht
  · exact ⟨hi, hlife⟩

theorem exec_close_of_closed {s : State} (hlife : s.life = .closed) :
    exec .closeBus s = .next { Config.afterClosedClose s with fault := true, commands := s.commands } := by
  simp [exec, execClose, hlife]

/-! ### The invariant of an open controller -/

/-- Lines kept claimed and as outputs, with the strobes idle, keep the invariant of an open controller. -/
theorem openInv_of_lines {r : OpenRegs} {s t : State} (hinv : OpenInv r s) (howned : t.owned = s.owned)
    (hclaimed : ∀ p, (t.pad p).claimed = (s.pad p).claimed) (hout : ∀ p ∈ s.owned, (t.pad p).mode = .out)
    (hew : (t.pad (gpio r.cfg .ew)).latch = Config.ewIdle)
    (hrw : r.canRead = true → (t.pad (gpio r.cfg .rw)).latch = Config.rwIdle) (hdir : t.dir = .out) : OpenInv r t where
  valid_cfg := hinv.valid_cfg
  w4_eq := hinv.w4_eq
  canRead_eq := hinv.canRead_eq
  owned_eq := howned.trans hinv.owned_eq
  pads_claimed := fun p hp => (hclaimed p).trans (hinv.pads_claimed p (howned ▸ hp))
  pads_out := fun p hp => hout p (howned ▸ hp)
  ew_idle := hew
  rw_idle := hrw
  dir_out := hdir

section Opened

variable {r : OpenRegs} {s : State} (hinv : OpenInv r s)

include hinv

/-- A write command keeps the invariant if it leaves EW idle: it drives RS, EW and the data lines alone (R98). -/
theorem openInv_of_writeKept {t : State} (k : WriteKept r s t)
    (hew : (t.pad (gpio r.cfg .ew)).latch = Config.ewIdle) : OpenInv r t := by
  refine openInv_of_lines hinv k.owned k.claimed (fun p hp => (k.mode p).trans (hinv.pads_out p hp)) hew
    (fun hread => ?_) (k.dir.trans hinv.dir_out)
  have hkept := k.latch (gpio r.cfg .rw) (fun hd => dataPin_ne_rw hinv hread hd rfl) (rs_ne_rw hinv hread).symm
    (ew_ne_rw hinv hread).symm
  exact hkept.trans (hinv.rw_idle hread)

/-- EW rests idle after a block, with or without bytes (R98). -/
theorem ew_writeBytes (bytes : List Byte) {t : State} (ht : (t.pad (gpio r.cfg .ew)).latch = Config.ewIdle) :
    ((runStmts (writeBytes r bytes) t).pad (gpio r.cfg .ew)).latch = Config.ewIdle := by
  rcases List.eq_nil_or_concat bytes with rfl | ⟨before, b, rfl⟩
  · exact ht
  · obtain ⟨v, hv⟩ := latch_writeBytes_last r before b t (gpio_lt_of_openInv hinv (ew_mem_lines _ _))
    rw [List.concat_eq_append, hv, ew_busWrite]

/-- A read command keeps the invariant: the data lines are turned back and RW rests idle (R111, R116). -/
theorem openInv_readAnswer (hread : r.canRead = true) (i : Instr) (rsLevel : Level) (n : Word32) :
    OpenInv r (readAnswer i r rsLevel n s) := by
  have hframe := readFrame_readAnswer i r rsLevel n s
  obtain ⟨-, hdata, hrw, hew, -⟩ := bus_readAnswer hinv hread i rsLevel n
  refine openInv_of_lines hinv hframe.owned hframe.claimed (fun p hp => ?_) hew (fun _ => hrw) (dir_readAnswer ..)
  by_cases hd : p ∈ dataPins r
  · exact (hdata p hd).1
  · exact (mode_readFrame_other r rsLevel n _ hd).trans (hinv.pads_out p hp)

end Opened

/-- An OPEN whose claims are all granted meets the invariant (R84 to R88). -/
theorem openInv_open_granted {c : BusConfig} {s : State} (hvalid : valid c = true)
    (hfree : ∀ p ∈ configPins c, (s.pad p).claimed = false) :
    OpenInv (openRegs c) (openDone c (runProgram (.openBus c) (openProg c) s)) := by
  have hpad {l : Line} (hl : l ∈ configLines c) := pad_open_granted hvalid hfree hl
  rw [openDone_of_granted (res_open_granted hvalid hfree)]
  refine ⟨hvalid, rfl, rfl, rfl, fun p hp => ?_, fun p hp => ?_, ?_, fun hread => ?_, rfl⟩
  · obtain ⟨l, hl, rfl⟩ := List.mem_map.mp hp
    exact congrArg Pad.claimed (hpad hl)
  · obtain ⟨l, hl, rfl⟩ := List.mem_map.mp hp
    exact congrArg Pad.mode (hpad hl)
  · exact congrArg Pad.latch (hpad (ew_mem_lines _ _))
  · exact congrArg Pad.latch (hpad (rw_mem_lines _ hread))

/-! ### Every command keeps what holds between commands -/

theorem between_of_closed {s : State} (hseq : s.seq = .idle) (hlife : s.life = .closed) (howned : s.owned = []) :
    Between s := ⟨hseq, by rw [hlife]; exact howned⟩

theorem between_of_opened {r : OpenRegs} {s : State} (hseq : s.seq = .idle) (hlife : s.life = .opened r)
    (hinv : OpenInv r s) : Between s := ⟨hseq, by rw [hlife]; exact hinv⟩

theorem idle_of_between {s : State} (h : Between s) : s.seq = .idle := by
  obtain ⟨hseq, -⟩ := h
  exact hseq

theorem owned_of_between {s : State} (h : Between s) (hlife : s.life = .closed) : s.owned = [] := by
  obtain ⟨-, h⟩ := h
  rw [hlife] at h
  exact h

theorem openInv_of_between {r : OpenRegs} {s : State} (h : Between s) (hlife : s.life = .opened r) : OpenInv r s := by
  obtain ⟨-, h⟩ := h
  rw [hlife] at h
  exact h

/-- An answer without bus activity keeps what holds between commands. -/
theorem between_respond {s : State} (h : Between s) (code : Byte) (data : List Byte) :
    Between (respond code data s) := by
  cases hlife : s.life with
  | closed =>
    have howned := owned_of_between h hlife
    exact between_of_closed rfl hlife howned
  | opened r => exact between_of_opened rfl hlife { openInv_of_between h hlife with }

/-- A valid OPEN either commits, or undoes its claims and stays closed (R86, R88). -/
theorem between_openDone {c : BusConfig} {s : State} (h : Between s) (hlife : s.life = .closed)
    (hvalid : valid c = true) :
    Between (openDone c (runProgram (.openBus c) (openProg c) s)) := by
  rcases first_held (configPins c) s with hfree | ⟨granted, p, later, hpins, hfree, hheld⟩
  · refine between_of_opened ?_ ?_ (openInv_open_granted hvalid hfree)
    all_goals rw [openDone_of_granted (res_open_granted hvalid hfree)]; rfl
  · have hkept := claimsOnly_open_refused hvalid hpins hfree hheld
    rw [openDone_of_refused (res_open_refused hvalid hpins hfree hheld)]
    exact between_of_closed rfl (hkept.life.trans hlife) (hkept.owned.trans (owned_of_between h hlife))

/-- Whatever an accepted command runs, it ends between commands. -/
theorem between_of_accepts {i : Instr} {prog : List Stmt} {s : State} (h : Between s) (haccepts : Accepts s i prog) :
    Between (commandDone i (runProgram i prog s)) := by
  cases haccepts with
  | openBus hlife hvalid => exact between_openDone h hlife hvalid
  | @wrc r b hlife =>
    have hinv := openInv_of_between h hlife
    have hkept := (bytesWritten_wrc s r b).toWriteKept
    have hew := (latch_wrc r b s (gpio_lt_of_openInv hinv (ew_mem_lines _ _))).trans (ew_busWrite ..)
    exact between_of_opened rfl (hkept.life.trans hlife) { openInv_of_writeKept hinv hkept hew with }
  | @wrb r bytes hlife =>
    have hinv := openInv_of_between h hlife
    have hkept := (bytesWritten_wrb s r bytes).toWriteKept
    have hew : ((runProgram (.wrb bytes) (wrbProg r bytes) s).pad (gpio r.cfg .ew)).latch = Config.ewIdle := by
      rw [runProgram_wrb]
      exact ew_writeBytes hinv bytes hinv.ew_idle
    exact between_of_opened rfl (hkept.life.trans hlife) { openInv_of_writeKept hinv hkept hew with }
  | @rdb r count hlife hread =>
    exact between_of_opened rfl ((readFrame_readAnswer ..).life.trans hlife)
      (openInv_readAnswer (openInv_of_between h hlife) hread (.rdb count) Config.rsDataLevel count)
  | @rdr r hlife hread =>
    exact between_of_opened rfl ((readFrame_readAnswer ..).life.trans hlife)
      (openInv_readAnswer (openInv_of_between h hlife) hread .rdr Config.rsCmdLevel 1#32)
  | closeBus hlife => exact between_of_closed rfl rfl rfl

theorem inv_exec {i : Instr} {s t : State} (h : Between s) (hexec : exec i s = .next t) : Inv t := by
  obtain ⟨k, rfl⟩ | ⟨prog, haccepts, rfl⟩ | ⟨-, -, hfault⟩ := exec_next_cases hexec
  · exact .inr (between_respond h _ _)
  · exact .inr (between_of_accepts h haccepts)
  · exact .inl hfault

/-- The command stream is no part of what holds between commands. -/
theorem between_consume {s : State} (h : Between s) (rest : List Byte) : Between (s.consume rest) := by
  have hseq := idle_of_between h
  cases hlife : s.life with
  | closed =>
    have howned := owned_of_between h hlife
    exact between_of_closed hseq hlife howned
  | opened r => exact between_of_opened hseq hlife { openInv_of_between h hlife with }

/-! ### The obligations -/

/-- Settles O9: no pin is owned at reset. -/
theorem resetMeetsTheInvariant : Obligations.ResetMeetsTheInvariant := .inr (between_of_closed rfl rfl rfl)

/-- Settles O17: claims and releases touch none of these registers. -/
theorem closeKeepsTheDataPathRegisters : Obligations.CloseKeepsTheDataPathRegisters := by
  intro s r hlife
  have hkept := claimsOnly_close r s
  have hres : (runProgram .closeBus (closeProg r) s).res = s.res := by rw [runProgram_close, res_releaseAll]; rfl
  exact ⟨_, exec_close_of_opened hlife, hkept.txb, hkept.rxb, hkept.cnt, hkept.h, hkept.rdata, hres, hkept.dir⟩

/-- Settles O18: the fault bit and the command stream are the two fields that the model fixes. -/
theorem closeWhileClosedSetsTheFault : Obligations.CloseWhileClosedSetsTheFault :=
  fun _ hlife => ⟨_, exec_close_of_closed hlife, rfl, rfl⟩

/-- Settles O19: the fault bit is tested first, by the step and by the end of a run. -/
theorem stickyFaultStopsEveryStep : Obligations.StickyFaultStopsEveryStep :=
  fun s hfault => ⟨by simp [step, hfault], by simp [ended, hfault]⟩

/-- Settles O20, by the three ways in which a step can answer. -/
theorem onlyClosedCloseSetsTheFault : Obligations.OnlyClosedCloseSetsTheFault := by
  intro s t hs hstep ht
  obtain ⟨cmd, mpc, rest, -, rfl⟩ | ⟨hidle, i, rest, hdecode, hexec⟩ | ⟨-, rest, rfl⟩ := step_next_cases hstep
  · rw [finishCommand, fault_commandDone, (runStmts_untouched rest s).fault, hs] at ht
    cases ht
  · obtain ⟨-, hseq⟩ := hidle
    obtain ⟨rfl, hlife⟩ := closed_close_of_fault (s := s.consume rest) hs hexec ht
    exact ⟨hseq, hlife, rest, hdecode⟩
  · have hkept : (badOpcode (s.consume rest)).fault = s.fault := rfl
    rw [hkept, hs] at ht; cases ht

/-- Settles O39: a state that meets the invariant and can step is between commands, so the step is one whole command. -/
theorem everyStepKeepsTheInvariant : Obligations.EveryStepKeepsTheInvariant := by
  intro s t hinv hstep
  have hbetween : Between s := by
    refine hinv.resolve_left fun hfault => ?_
    simp [step, hfault] at hstep
  obtain ⟨cmd, mpc, rest, hseq, -⟩ | ⟨-, i, rest, -, hexec⟩ | ⟨-, rest, rfl⟩ := step_next_cases hstep
  · rw [idle_of_between hbetween] at hseq; cases hseq
  · exact inv_exec (between_consume hbetween rest) hexec
  · exact .inr (between_respond (between_consume hbetween rest) _ _)

end Sys2Proof.Proofs.Invariant
end

section
/-! PROOFS. Reads of the oracle (10_state.md R27, 40_microops.md R78): every sample of a read command is the next free
value on its line. -/

namespace Sys2Proof.Proofs.Oracle

open Sys2Proof.Machine Sys2Proof.Claims Sys2Proof.Laws
open Sys2Proof.Proofs.Lifecycle Sys2Proof.Proofs.Write Sys2Proof.Proofs.Read

/-! ### Lines that nothing drives -/

/-- The data lines are inputs and the oracle is on the bus, so that no level of a data line is fixed (R26, R27). -/
structure FreeLines (r : OpenRegs) (s : State) : Prop where
  oracle : s.dev = .oracle
  inputs : ∀ p ∈ dataPins r, (s.pad p).mode = .inp

section Free

variable {r : OpenRegs} {s : State} (h : FreeLines r s)

include h

/-- Only a mode can end it. -/
theorem FreeLines.runStmts {prog : List Stmt} (hn : NoCheck prog) (hmode : ∀ p m, Stmt.op (.mode p m) ∉ prog) :
    FreeLines r (runStmts prog s) := by
  refine ⟨oracle_runStmts hn s h.oracle, fun p hp => ?_⟩
  by_cases hlt : p < 28
  · rw [mode_runStmts hn s hlt, modeAfter_same (hmode p), h.inputs p hp]
  · have hkept : (Machine.runStmts prog s).pad p = s.pad p := by rw [pad_of_ge _ hlt, pad_of_ge _ hlt]
    rw [hkept, h.inputs p hp]

/-- The sample of a free line is the free value whose turn it is (R78). -/
theorem FreeLines.levelAt {p : Nat} (hp : p ∈ dataPins r) (k : Nat) : levelAt s k p = Config.ext (s.draws + k) p := by
  simp [Laws.levelAt, h.inputs p hp, h.oracle, driven]

theorem FreeLines.strobed : FreeLines r (strobed r.cfg s) :=
  h.runStmts (prog := [.op (.delay _), .op (.write _ _), .op (.delay _)]) (by intro undo; simp) (by simp)

theorem FreeLines.setPhase (low : Bool) : FreeLines r (performStmt (.setPhase low) s) := { h with }

theorem FreeLines.readCycle (ls : List (Fin 8)) (bit : Fin 8 → Nat) :
    FreeLines r (Machine.runStmts (readCycle r.cfg ls bit) s) :=
  h.runStmts (by intro undo; simp [Machine.readCycle, sampleData]) (by simp [Machine.readCycle, sampleData])

theorem FreeLines.secondCycle : FreeLines r (secondCycle r s) := ((h.setPhase false).readCycle _ _).setPhase true

theorem FreeLines.busRead : FreeLines r (Machine.runStmts (busRead r) s) :=
  h.runStmts (noCheck_busRead r) fun p m => (kinds_busRead r p m).2.2

end Free

/-! ### The free values in turn -/

/-- The data line that the `j`-th sample of a read is taken on (R109 to R111). -/
def samplePin (r : OpenRegs) (j : Nat) : Nat := (dataPins r).getD (j % (dataPins r).length) 0

/-- The next `m` free values, from number `d` on, on the data lines in turn. -/
def freeLevels (r : OpenRegs) (d m : Nat) : List Level :=
  (List.range m).map fun j => Config.ext (d + j) (samplePin r j)

theorem length_freeLevels (r : OpenRegs) (d m : Nat) : (freeLevels r d m).length = m := by simp [freeLevels]

theorem getD_freeLevels (r : OpenRegs) (d : Nat) {m j : Nat} (hj : j < m) :
    (freeLevels r d m).getD j false = Config.ext (d + j) (samplePin r j) := by
  simp [freeLevels, List.getD_eq_getElem?_getD, hj]

/-- A byte takes each data line once or twice, so the next byte starts on the same line. -/
theorem samplePin_add_byte (r : OpenRegs) (j : Nat) : samplePin r (8 + j) = samplePin r j := by
  have hlen : (dataPins r).length ∣ 8 := by cases hw : r.w4 <;> simp [dataPins, hw]
  rw [samplePin, Nat.add_mod, Nat.mod_eq_zero_of_dvd hlen, Nat.zero_add, Nat.mod_mod]
  rfl

theorem freeLevels_add_byte (r : OpenRegs) (d m : Nat) :
    freeLevels r d (8 + m) = freeLevels r d 8 ++ freeLevels r (d + 8) m := by
  simp [freeLevels, List.range_add, Function.comp_def, samplePin_add_byte, Nat.add_assoc]

/-! ### What a read samples -/

/-- Four samples have been taken when the second cycle of a byte starts (R110). -/
theorem draws_secondCycle (r : OpenRegs) (s : State) : (secondCycle r s).draws = s.draws + 4 := by
  obtain ⟨-, -, -, -, hdraws⟩ := runStmts_sampleData r.cfg [4, 5, 6, 7] (fun i => i.val)
    (strobed r.cfg (performStmt (.setPhase false) s))
  rw [secondCycle, runStmts_readCycle]
  exact hdraws

/-- Samples of free lines are the free values from the next one on, each on its own line (R78, R109). -/
theorem lineLevels_free {r : OpenRegs} {s : State} (h : FreeLines r s) {ls : List (Fin 8)}
    (hls : ∀ i ∈ ls, .d i ∈ dataLines r.w4) (k : Nat) : lineLevels r.cfg s k ls =
      ((ls.map fun i => gpio r.cfg (.d i)).zipIdx (s.draws + k)).map fun x => Config.ext x.2 x.1 := by
  induction ls generalizing k with
  | nil => rfl
  | cons i ls ih =>
    obtain ⟨hi, hls⟩ := List.forall_mem_cons.mp hls
    rw [lineLevels, h.levelAt (map_gpio_dataLines r ▸ List.mem_map_of_mem hi), ih hls]
    rfl

/-- The eight samples of a byte, the high nibble first in 4-bit mode (R109, R110). -/
theorem byteLevels_free {r : OpenRegs} {s : State} (h : FreeLines r s) : byteLevels r s = freeLevels r s.draws 8 := by
  have hdraws (t : State) : (strobed r.cfg t).draws = t.draws := rfl
  cases hw : r.w4 with
  | false =>
    have hlevels := lineLevels_free h.strobed (ls := [0, 1, 2, 3, 4, 5, 6, 7]) (fun i _ => data_mem_of_width8 hw i) 0
    rw [byteLevels, if_neg (by simp [hw]), hlevels, hdraws]
    simp [freeLevels, List.range_succ, samplePin, dataPins, hw, gpio, pinByte]
  | true =>
    have hmem : ∀ i ∈ [4, 5, 6, 7], .d i ∈ dataLines r.w4 := fun i hi => data_mem_of_width4 hw hi
    rw [byteLevels, if_pos hw, lineLevels_free (h.setPhase false).strobed hmem, hdraws,
      lineLevels_free h.secondCycle.strobed hmem, hdraws, draws_secondCycle]
    simp [performStmt, freeLevels, List.range_succ, samplePin, dataPins, hw, gpio, pinByte]

/-- The samples of the bytes of a frame are the free values in turn. -/
theorem samples_readBytes {r : OpenRegs} {s : State} (h : FreeLines r s) (n : Nat) :
    ∃ es, (runStmts (readBytes r n) s).trace = s.trace ++ es ∧ samples es = freeLevels r s.draws (8 * n) := by
  induction n generalizing s with
  | zero => exact ⟨[], (List.append_nil _).symm, rfl⟩
  | succ n ih =>
    obtain ⟨first, hfirst, -, hbyte, -⟩ := rxb_busRead r s
    obtain ⟨hdraws, -⟩ := ghosts_busRead r s
    have hnext : FreeLines r (performStmt .countDown (performStmt .takeByte (runStmts (busRead r) s))) :=
      { h.busRead with }
    obtain ⟨es, htrace, hsamples⟩ := ih hnext
    refine ⟨first ++ es, ?_, ?_⟩
    · rw [runStmts_readBytes_succ, htrace, ← List.append_assoc, ← hfirst]
      rfl
    · rw [samples_append, hbyte, byteLevels_free h, hsamples, Nat.mul_succ, Nat.add_comm, freeLevels_add_byte,
        ← hdraws]
      rfl

section Frame

variable {r : OpenRegs} {s : State} (hinv : OpenInv r s) (hdev : s.dev = .oracle)

include hinv hdev

/-- A frame turns the data lines to inputs before it reads (R111). -/
theorem freeLines_frameStart (i : Instr) (prog : List Stmt) (rsLevel : Level) (n : Word32) :
    FreeLines r (frameStart r rsLevel n (accept i prog s)) := by
  have hturned : FreeLines r (runStmts (turnLines r .inp) (doWrite (gpio r.cfg .rs) rsLevel (accept i prog s))) := by
    refine ⟨oracle_runStmts (noCheck_turnLines r .inp) _ ?_, fun p hp => ?_⟩
    · rw [doWrite_dev, accept_dev, hdev]
      rfl
    · rw [mode_runStmts (noCheck_turnLines r .inp) _ (dataPin_lt hinv hp), modeAfter_turnLines r .inp hp]
  exact { hturned with }

/-- A read command of `n` bytes samples the next `8 n` free values (R27, R78, R111). -/
theorem samples_readAnswer (i : Instr) (rsLevel : Level) (n : Word32) :
    ∃ es, (readAnswer i r rsLevel n s).trace = s.trace ++ es ∧
      samples es = freeLevels r s.draws (8 * n.toNat) ∧
      (readAnswer i r rsLevel n s).draws = s.draws + 8 * n.toNat := by
  obtain ⟨-, -, hdraws, -, -⟩ := readAnswer_counters i r rsLevel n s
  obtain ⟨es, hbytes, hsamples⟩ :=
    samples_readBytes (freeLines_frameStart hinv hdev i (readFrame r rsLevel n) rsLevel n) n.toNat
  refine ⟨(.write r.cfg.rs.toNat rsLevel :: (dataPins r).map fun p => .mode p .inp) ++ es ++
    (dataPins r).map fun p => .mode p .out, ?_, ?_, hdraws⟩
  · refine (trace_readFrame r rsLevel n (accept i (readFrame r rsLevel n) s)).trans ?_
    rw [hbytes, trace_frameStart]
    simp only [accept_trace, List.append_assoc]
  · have hstart : samples (.write r.cfg.rs.toNat rsLevel :: (dataPins r).map fun p => .mode p .inp) = [] :=
      samples_map_mode _ _
    rw [samples_append, samples_append, samples_map_mode, hstart, List.nil_append, List.append_nil, hsamples,
      frameStart_same r rsLevel n _ State.draws (fun _ _ _ => rfl) (fun _ _ _ => rfl) fun _ => rfl]
    rfl

end Frame

/-! ### The obligation -/

/-- Settles O31: both reads are frames, and their samples are `freeLevels`. -/
theorem readsReturnWhatTheDeviceDrives : Obligations.ReadsReturnWhatTheDeviceDrives := by
  intro s r count hlife hinv hread hdev
  refine ⟨?_, ?_⟩
  · obtain ⟨es, htrace, hsamples, hdraws⟩ :=
      samples_readAnswer hinv hdev (.rdb count) Config.rsDataLevel count
    refine ⟨_, es, exec_rdb_of_readable hlife hread count, htrace, ?_, hdraws, fun j hj => ?_⟩
    · rw [hsamples, length_freeLevels]
    · rw [hsamples]
      exact getD_freeLevels r _ hj
  · obtain ⟨es, htrace, hsamples, hdraws⟩ := samples_readAnswer hinv hdev .rdr Config.rsCmdLevel 1#32
    refine ⟨_, es, exec_rdr_of_readable hlife hread, htrace, ?_, hdraws, fun j hj => ?_⟩
    · rw [hsamples, length_freeLevels]
      rfl
    · rw [hsamples]
      exact getD_freeLevels r _ hj

end Sys2Proof.Proofs.Oracle
end

section
/-! PROOFS. Micro-operations and the sequencer (40_microops.md R73 to R79, 10_state.md R22): what each micro-operation
changes, and that a command that runs is its statements one at a time. -/

namespace Sys2Proof.Proofs.Sequencer

open Sys2Proof.Machine Sys2Proof.Claims Sys2Proof.Laws
open Sys2Proof.Proofs.Encoding Sys2Proof.Proofs.Programs

/-! ### One micro-operation -/

/-- Every micro-operation counts in `mpc` (R22, R73). -/
theorem perform_seq (o : MicroOp) (s : State) : (perform o s).seq = s.seq.bump := by cases o <;> rfl

/-- What a micro-operation leaves alone, and by how much it moves `draws` and `tmin` (R73 to R79). -/
theorem microOpFrame_perform (o : MicroOp) (s : State) : MicroOpFrame o s (perform o s) where
  life := (perform_untouched o s).life
  owned := (perform_untouched o s).owned
  idle := fun hseq => by rw [perform_seq, hseq]; rfl
  mpc := fun cmd mpc rest hseq => by rw [perform_seq, hseq]; rfl
  txb := by cases o <;> rfl
  rxb := by cases o <;> rfl
  cnt := by cases o <;> rfl
  h := by cases o <;> rfl
  rdata := by cases o <;> rfl
  status := (perform_untouched o s).status
  fault := (perform_untouched o s).fault
  dir := by cases o <;> rfl
  nEw := by cases o <;> rfl
  nRw := by cases o <;> rfl
  commands := (perform_untouched o s).commands
  responses := (perform_untouched o s).responses
  oracle := oracle_runStmts (prog := [.op o]) (by intro undo; simp) s
  dev := by
    intro hwrite
    cases o with
    | write p v => exact absurd rfl (hwrite p v)
    | _ => rfl
  res := by
    intro hclaim hsample
    cases o with
    | claim p => exact absurd rfl (hclaim p)
    | sample p => exact absurd rfl (hsample p)
    | _ => rfl
  draws := by cases o <;> rfl
  tmin := by cases o <;> rfl

/-- A sample answers the latch of an output, and of an input what drives it or the next free value (R26, R27, R78). -/
theorem res_doSample (p : Nat) (s : State) : (doSample p s).res =
    if (s.pad p).mode = .out then (s.pad p).latch else (driven s.dev p).getD (Config.ext s.draws p) := by
  rw [doSample_res, State.level]
  cases hmode : (s.pad p).mode <;> rfl

/-! ### Where the sequencer stands is no part of what a statement does -/

/-- The state with the sequencer idle. -/
def atRest (s : State) : State := { s with seq := .idle }

theorem performStmt_atRest (m : Stmt) (s : State) : performStmt m (atRest s) = atRest (performStmt m s) := by
  cases m with
  | op o => cases o <;> rfl
  | _ => rfl

theorem abortsAt_atRest (m : Stmt) (s : State) : abortsAt m (atRest s) = abortsAt m s := by cases m <;> rfl

theorem releaseAll_atRest (ps : List Nat) (s : State) : releaseAll ps (atRest s) = atRest (releaseAll ps s) := by
  induction ps generalizing s with
  | nil => rfl
  | cons p ps ih =>
    rw [releaseAll_cons, releaseAll_cons, ← ih]
    rfl

theorem runStmts_atRest (prog : List Stmt) (s : State) : runStmts prog (atRest s) = atRest (runStmts prog s) := by
  induction prog generalizing s with
  | nil => rfl
  | cons m ms ih =>
    simp only [runStmts, abortsAt_atRest]
    split
    · exact releaseAll_atRest _ s
    · rw [performStmt_atRest, ih]

/-- Every command's end sets the sequencer idle, wherever it stood (R22). -/
theorem commandDone_atRest (i : Instr) (s : State) : commandDone i (atRest s) = commandDone i s := by
  cases i with
  | openBus c => cases hres : s.res <;> simp [commandDone, openDone, atRest, hres, succeed, fail, respond]
  | _ => rfl

/-- What a command in progress leads to does not depend on where its sequencer stands. -/
theorem finishCommand_congr {s t : State} (h : atRest s = atRest t) (i : Instr) (rest : List Stmt) :
    finishCommand i rest s = finishCommand i rest t := by
  rw [finishCommand, finishCommand, ← commandDone_atRest, ← runStmts_atRest, h, runStmts_atRest, commandDone_atRest]

/-! ### One statement of a command in progress -/

theorem runStmts_releases (ps : List Nat) (s : State) :
    runStmts (ps.map fun p => .op (.release p)) s = releaseAll ps s := by
  induction ps generalizing s with
  | nil => rfl
  | cons p ps ih => exact ih _

theorem noCheck_releases (ps : List Nat) : NoCheck (ps.map fun p => .op (.release p)) := by
  intro undo
  simp

/-- A step of a state with a command in progress ends the command (R22). -/
theorem step_of_run {s : State} {cmd : Instr} {mpc : Nat} {rest : List Stmt} (hfault : s.fault = false)
    (hseq : s.seq = .run cmd mpc rest) : step s = .next (finishCommand cmd rest s) := by
  simp [step, hfault, hseq]

section Micro

variable {s : State} {cmd : Instr} {mpc : Nat} {m : Stmt} {ms : List Stmt} (hseq : s.seq = .run cmd mpc (m :: ms))

include hseq

/-- A check that fails replaces the program by the releases (R86). -/
theorem microStep_of_aborts {undo : List Nat} (h : abortsAt m s = some undo) :
    microStep s = { s with seq := .run cmd mpc (undo.map fun p => .op (.release p)) } := by
  simp [microStep, hseq, h, Seq.setRest]

/-- Any other statement is performed and leaves the rest of the program (R45). -/
theorem microStep_of_performs (h : abortsAt m s = none) :
    microStep s = { performStmt m s with seq := (performStmt m s).seq.setRest ms } := by
  simp [microStep, hseq, h]

/-- A statement moves `mpc` by as many as it adds to the trace. -/
theorem counts_microStep_of_performs (h : abortsAt m s = none) :
    ∃ k, (microStep s).seq = .run cmd (mpc + k) ms ∧ (microStep s).trace.length = s.trace.length + k := by
  rw [microStep_of_performs hseq h]
  cases m with
  | op o =>
    refine ⟨1, ?_, ?_⟩
    · change (perform o s).seq.setRest ms = _
      rw [perform_seq, hseq]
      rfl
    · change (perform o s).trace.length = _
      rw [perform_trace, List.length_append]
      rfl
  | _ => exact ⟨0, congrArg (Seq.setRest ms) hseq, rfl⟩

end Micro

theorem fault_microStep (s : State) : (microStep s).fault = s.fault := by
  unfold microStep
  split
  · rfl
  · rfl
  · split
    · rfl
    · exact (performStmt_untouched _ s).fault

/-- A command in progress leads to the same end after one more of its statements. -/
theorem step_microStep {s : State} (hfault : s.fault = false) : step (microStep s) = step s := by
  have hfault' := (fault_microStep s).trans hfault
  cases hseq : s.seq with
  | idle => simp [microStep, hseq]
  | run cmd mpc rest =>
    cases rest with
    | nil => simp [microStep, hseq]
    | cons m ms =>
      rw [step_of_run hfault hseq]
      cases haborts : abortsAt m s with
      | some undo =>
        have hmicro := microStep_of_aborts hseq haborts
        rw [step_of_run hfault' (by rw [hmicro]),
          finishCommand_congr (t := s) (by rw [hmicro]; rfl), finishCommand, finishCommand, runStmts_releases]
        simp [runStmts, haborts]
      | none =>
        obtain ⟨k, hseq', -⟩ := counts_microStep_of_performs hseq haborts
        rw [step_of_run hfault' hseq',
          finishCommand_congr (t := performStmt m s) (by rw [microStep_of_performs hseq haborts]; rfl), finishCommand,
          finishCommand]
        simp [runStmts, haborts]

theorem step_iterate_microStep {s : State} (hfault : s.fault = false) (n : Nat) : step (microStep^[n] s) = step s := by
  induction n generalizing s with
  | zero => rfl
  | succ n ih => rw [Function.iterate_succ_apply, ih ((fault_microStep s).trans hfault), step_microStep hfault]

theorem fault_iterate_microStep (s : State) (n : Nat) : (microStep^[n] s).fault = s.fault := by
  induction n generalizing s with
  | zero => rfl
  | succ n ih => rw [Function.iterate_succ_apply, ih, fault_microStep]

/-! ### A command in progress comes to its end -/

/-- After some statements nothing is left of the program of `cmd`, and `mpc` has counted the events since `mpc`. -/
def RunsOut (cmd : Instr) (mpc : Nat) (s : State) : Prop :=
  ∃ n mpc', (microStep^[n] s).seq = .run cmd mpc' [] ∧
    (microStep^[n] s).trace.length = s.trace.length + (mpc' - mpc) ∧ mpc ≤ mpc'

theorem runsOut_of_microStep {cmd : Instr} {mpc k : Nat} {s : State}
    (hk : (microStep s).trace.length = s.trace.length + k) (h : RunsOut cmd (mpc + k) (microStep s)) :
    RunsOut cmd mpc s := by
  obtain ⟨n, mpc', hseq, htrace, hle⟩ := h
  exact ⟨n + 1, mpc', hseq, by rw [Function.iterate_succ_apply, htrace]; omega, by omega⟩

theorem runsOut_nil {cmd : Instr} {mpc : Nat} {s : State} (hseq : s.seq = .run cmd mpc []) : RunsOut cmd mpc s :=
  ⟨0, mpc, hseq, by simp, Nat.le_refl _⟩

theorem runsOut_of_noCheck {rest : List Stmt} (hn : NoCheck rest) {cmd : Instr} {mpc : Nat} {s : State}
    (hseq : s.seq = .run cmd mpc rest) : RunsOut cmd mpc s := by
  induction rest generalizing s mpc with
  | nil => exact runsOut_nil hseq
  | cons m ms ih =>
    obtain ⟨k, hseq', hk⟩ := counts_microStep_of_performs hseq (abortsAt_eq_none hn.head s)
    exact runsOut_of_microStep hk (ih hn.tail hseq')

/-- Every program comes to its end: a check that fails leaves releases alone, which hold no check (R86, R186). -/
theorem runsOut_of_run {rest : List Stmt} {cmd : Instr} {mpc : Nat} {s : State} (hseq : s.seq = .run cmd mpc rest) :
    RunsOut cmd mpc s := by
  induction rest generalizing s mpc with
  | nil => exact runsOut_nil hseq
  | cons m ms ih =>
    cases haborts : abortsAt m s with
    | some undo =>
      have hmicro := microStep_of_aborts hseq haborts
      refine runsOut_of_microStep (k := 0) (by rw [hmicro]; rfl) ?_
      exact runsOut_of_noCheck (noCheck_releases undo) (by rw [hmicro]; rfl)
    | none =>
      obtain ⟨k, hseq', hk⟩ := counts_microStep_of_performs hseq haborts
      exact runsOut_of_microStep hk (ih hseq')

/-- An accepted command is the step of the state that has taken it (R22, R46). -/
theorem exec_eq_step_accept {s : State} {i : Instr} {prog : List Stmt} (hfault : s.fault = false)
    (h : Accepts s i prog) : exec i s = step (accept i prog s) := by
  rw [exec_of_accepts h, step_of_run (s := accept i prog s) hfault rfl]
  rfl

/-! ### The obligations -/

/-- Settles O49: the pads by the pad rules of each micro-operation, the rest by its event and its frame. -/
theorem microOperationsChangeTheirOwnField : Obligations.MicroOperationsChangeTheirOwnField := by
  refine ⟨fun s p q hp => ?_, fun s o => ⟨⟨eventOf s o, perform_trace o s, microOp_eventOf o s, ?_, ?_⟩,
    microOpFrame_perform o s⟩⟩
  · have hpad : (q = p ∧ p < 28) ↔ q = p := and_iff_left hp
    have hown {x y : Pad} (hxy : q = p → x = y) :
        (if q = p ∧ p < 28 then x else s.pad q) = if q = p then y else s.pad q := by
      simp only [hpad]
      split_ifs with hq
      · exact hxy hq
      · rfl
    refine ⟨(pad_doClaim s p q).trans (hown ?_), by simp [perform], (pad_doRelease s p q).trans (hown ?_),
      fun m => (pad_doMode s p q m).trans (hown ?_), fun v => (pad_doWrite s p q v).trans (hown ?_), rfl,
      res_doSample p s, fun _ => rfl⟩
    all_goals rintro rfl; rfl
  · rintro p rfl; rfl
  · rintro p rfl; rfl

/-- Settles O41: a step is what is left of the program and the command's end, and a statement performed takes itself off
what is left. -/
theorem runIsItsMicroSteps : Obligations.RunIsItsMicroSteps := by
  refine ⟨fun s c hfault hlife hvalid => exec_eq_step_accept hfault (.openBus hlife hvalid),
    fun s r hfault hlife => ⟨fun b => exec_eq_step_accept hfault (.wrc b hlife),
      fun bytes => exec_eq_step_accept hfault (.wrb bytes hlife),
      fun hread count => exec_eq_step_accept hfault (.rdb count hlife hread),
      fun hread => exec_eq_step_accept hfault (.rdr hlife hread), exec_eq_step_accept hfault (.closeBus hlife)⟩,
    fun s cmd mpc rest hfault hseq => ⟨step_iterate_microStep hfault, ?_⟩⟩
  obtain ⟨n, mpc', hended, htrace, hle⟩ := runsOut_of_run hseq
  refine ⟨n, mpc', hended, ?_, htrace, hle⟩
  rw [← step_iterate_microStep hfault n, step_of_run ((fault_iterate_microStep s n).trans hfault) hended]
  rfl

end Sys2Proof.Proofs.Sequencer
end

section
/-! PROOFS. Errors at the façade (45_host_facade.md R128, R138; 60_exceptions.md R146): what a closed controller
answers, how an error ends a call, and the façade read of one byte. -/

namespace Sys2Proof.Proofs.FacadeCalls

open Sys2Proof.Machine Sys2Proof.Claims Sys2Proof.Laws
open Sys2Proof.Proofs.Encoding Sys2Proof.Proofs.Write Sys2Proof.Proofs.Read Sys2Proof.Proofs.Facade
open Sys2Proof.Proofs.Exceptions

/-! ### A command that fails -/

/-- A command that fails ends a call that does not go on (R138). -/
theorem issue_cons_of_error {i : Instr} {is : List Instr} {s t : State} {k : ErrorKind} (hexec : exec i s = .next t)
    (hstatus : t.status = statusCode k) :
    issue false (i :: is) s = .next { state := t, error := some k, data := responseData s t } := by
  simp [issue, hexec, hstatus]

/-- A command turned away ends the call with its error and no data (R138, R152). -/
theorem issue_cons_of_fail {i : Instr} {s : State} {k : ErrorKind} (hexec : exec i s = .next (fail k s))
    (is : List Instr) : issue false (i :: is) s = .next { state := fail k s, error := some k, data := [] } := by
  have hdata : responseData s (fail k s) = [] := responseData_eq (code := statusCode k) rfl
  rw [issue_cons_of_error hexec rfl, hdata]

/-! ### A façade read of one byte (R128) -/

section Opened

variable {s : State} {r : OpenRegs} (hlife : s.life = .opened r)

include hlife

/-- On a readable bus: the opcode, then one byte. -/
theorem readData_of_readable (hread : r.canRead = true) (opc : Byte) :
    ∃ t u b, exec (.wrc opc) s = .next t ∧ exec (.rdb 1#32) t = .next u ∧
      u.responses = s.responses ++ [0x00#8, 0x00#8, b] ∧
      readData opc s = .next { state := u, error := none, data := [b] } := by
  have ht := wrcAnswer_life hlife opc
  have hlength : (readAnswer (.rdb 1#32) r Config.rsDataLevel 1#32 (wrcAnswer r opc s)).rdata.length = 1 :=
    length_rdata_readFrame ..
  obtain ⟨b, hb⟩ := List.length_eq_one_iff.mp hlength
  have hwrc : (wrcAnswer r opc s).responses = s.responses ++ [0x00#8] := (bytesWritten_wrc s r opc).responses_succeed
  have hrdb := issue_rdb_cons_of_readable ht hread 1#32 (issue_nil false _)
  rw [hb] at hrdb
  refine ⟨_, _, b, exec_wrc_of_opened hlife opc, exec_rdb_of_readable ht hread 1#32, ?_, ?_⟩
  · rw [readAnswer_responses, hb]
    exact (congrArg (· ++ [0x00#8, b]) hwrc).trans (List.append_assoc ..)
  · rw [readData, isWriteOnly_of_opened hlife, hread]
    exact issue_wrc_cons hlife opc hrdb

/-- On a write-only bus the RDB fails, whether or not the opcode was sent before it (R115, R128). -/
theorem readData_of_writeOnly (hread : r.canRead = false) (opc : Byte) :
    ∃ u, readData opc s = .next { state := u, error := some .unsupportedOperation, data := [] } ∧ u.status = 0x02#8 ∧
      (u.trace = s.trace ∨ u.trace = s.trace ++ writeByteEvents r Config.rsCmdLevel opc) := by
  have hfails {t : State} (ht : t.life = .opened r) :=
    issue_cons_of_fail (exec_rdb_of_writeOnly ht hread 1#32) []
  rw [readData, isWriteOnly_of_opened hlife, hread]
  cases hsent : Config.sendsReadOpcode with
  | false =>
    have hcmds : readCmds opc 1#32 true = [.rdb 1#32] := by simp [readCmds, hsent]
    rw [Bool.not_false, hcmds]
    exact ⟨_, hfails hlife, rfl, .inl rfl⟩
  | true =>
    have hcmds : readCmds opc 1#32 true = [.wrc opc, .rdb 1#32] := by simp [readCmds, hsent]
    have htrace := (bytesWritten_wrc s r opc).trace
    rw [List.flatMap_singleton] at htrace
    rw [Bool.not_false, hcmds]
    exact ⟨_, issue_wrc_cons hlife opc (hfails (wrcAnswer_life hlife opc)), rfl, .inr htrace⟩

end Opened

/-- The three façade reads are one read with three opcodes (R128). -/
theorem eq_readData_of_mem {op : (State → Host.Outcome FacadeEnd Fault Refusal) × Byte}
    (h : op ∈ [(readIncrement, Config.opcDataReadInc), (readDecrement, Config.opcDataReadDec),
      (readNonvariable, Config.opcDataReadNonvar)]) : op.1 = readData op.2 := by
  simp only [List.mem_cons, List.not_mem_nil, or_false] at h
  obtain rfl | rfl | rfl := h <;> rfl

/-! ### The obligations -/

/-- Settles O35: the lifecycle test turns all four away. -/
theorem transfersWhileClosedAreHandleInvalid : Obligations.TransfersWhileClosedAreHandleInvalid :=
  fun _ hlife => ⟨exec_wrc_of_closed hlife, exec_wrb_of_closed hlife, exec_rdb_of_closed hlife,
    exec_rdr_of_closed hlife⟩

/-- Settles O51, by whether the bus is readable. -/
theorem facadeReadReturnsOneByte : Obligations.FacadeReadReturnsOneByte := by
  refine ⟨fun s r hlife hread op hop => ?_, fun s r hlife hread op hop => ?_⟩
  · rw [eq_readData_of_mem hop]
    exact readData_of_readable hlife hread op.2
  · rw [eq_readData_of_mem hop]
    exact readData_of_writeOnly hlife hread op.2

/-- Settles O53: a command turned away, a command that succeeds, and a command that fails. -/
theorem facadeErrorsComeUpUnchanged : Obligations.FacadeErrorsComeUpUnchanged := by
  refine ⟨fun s i is hlife hopen hclose => ?_, fun goOn s t i is e hexec hstatus he => ?_,
    fun s t i is k hexec hstatus => issue_cons_of_error hexec hstatus⟩
  · exact issue_cons_of_fail (exec_transfer_of_closed hlife hopen hclose) is
  · have hok : errorOf t.status = none := hstatus ▸ errorOf_statusOk
    rw [issue_cons hexec (.inl hok) he, hok]
    rfl

end Sys2Proof.Proofs.FacadeCalls
end
